-- ==== Sys2Proof/Word.lean ====
section
/-! DEFINITION. The word types: the 64-bit register word and the byte. -/

namespace Sys2Proof

/-- A byte of the buffer (R16, R100). -/
abbrev Byte := BitVec 8

/-- A register, command or bus word of 64 bits (R14). -/
abbrev Word := BitVec 64

end Sys2Proof
end

