-- ==== Sys2Proof/Config.lean ====
section
/-! DEFINITION. What an implementation fixes (R11, R12) and the one free value of the spec, the entropy
source (R60, R61). -/

namespace Sys2Proof.Config

/-- `LIMB_BITS` (R11, R12). -/
abbrev limbBits : Nat := 64

/-- `BIGINT_LIMBS` (R11). -/
abbrev bigintLimbs : Nat := 128

/-- The width bound of a register in bits, `64*BIGINT_LIMBS` (R351, R355). -/
abbrev capBits : Nat := limbBits * bigintLimbs

/-- `CAP = 2^(64*BIGINT_LIMBS)`: a register holds `v` with `|v| < CAP` (R11, R30). -/
def cap : Nat := 2 ^ capBits

/-- `N_BREG` (R11). -/
abbrev nBreg : Nat := 16

/-- `N_CTX` (R11). -/
abbrev nCtx : Nat := 8

/-- `BUF_BYTES` (R11, R100). -/
abbrev bufBytes : Nat := 65536

/-- `MR_DEFAULT_ROUNDS` (R11, R12). -/
abbrev mrDefaultRounds : Nat := 40

/-- `TRIAL_BOUND` (R11). -/
abbrev trialBound : Nat := 1000

/-- `PRIMEGEN_MAX_ATTEMPTS` (R11). -/
abbrev primegenMaxAttempts : Nat := 1048576

/-- `SQRT_Z_MAX` (R11). -/
abbrev sqrtZMax : Nat := 65536

/-- `RNG_MAY_FAIL` (R11, R61). -/
abbrev rngMayFail : Bool := true

/-- The entropy source (R60): what the `i`-th consultation supplies. `none` is a failure report (R61);
`some r` is a value from which the draw is read (`Machine.uniformOf`, `Machine.bytesOf`,
`Machine.nonzeroBytesOf`), every value of the draw's range being reached by some `r`.
FREE VALUE (U11, U12): it has no body, so a claim about it holds for every supply (log 2). -/
opaque entropy : Nat → Option Nat

/-- The entropy source as the commands consult it: failures are admitted only where `RNG_MAY_FAIL`
(R61). -/
def source (i : Nat) : Option Nat :=
  if rngMayFail then entropy i else some ((entropy i).getD 0)

end Sys2Proof.Config
end

