-- ==== Sys2Proof/Syntax.lean ====
section
/-! DEFINITION. The commands of VCSC-CMD version 1 as syntax: one constructor per row of the opcode
table (R157), with the operands of its format (R152 to R156). -/

namespace Sys2Proof

/-- A BigInt register index, `b0` to `b15` (R30, R152). -/
abbrev Reg := Fin Config.nBreg

/-- A stream context index, `ctx0` to `ctx7` (R50, R152). -/
abbrev CtxIx := Fin Config.nCtx

/-- The chaining modes with their codes 0 to 4 (R450). -/
inductive Mode where
  | ecb
  | cbc
  | cfb
  | ofb
  | ctr
deriving DecidableEq, Repr

/-- The direction of a stream (R50) and of AESLEN (R154). -/
inductive Dir where
  | enc
  | dec
deriving DecidableEq, Repr

/-- The 36 commands (R157). Register operands stand in the order rd, rd2, rs3 as a destination, then
the sources, as the rules name them. -/
inductive Instr where
  /-- `NOP` (R201). -/
  | nop
  /-- `BSETI rd, simm32` (R202). -/
  | bseti (rd : Reg) (imm : BitVec 32)
  /-- `BMOV rd, rs1` (R203). -/
  | bmov (rd rs1 : Reg)
  /-- `BNEG rd, rs1` (R204). -/
  | bneg (rd rs1 : Reg)
  /-- `BADD rd, rs1, rs2` (R205). -/
  | badd (rd rs1 rs2 : Reg)
  /-- `BSUB rd, rs1, rs2` (R206). -/
  | bsub (rd rs1 rs2 : Reg)
  /-- `BMUL rd, rs1, rs2` (R207). -/
  | bmul (rd rs1 rs2 : Reg)
  /-- `BDIVREM rd, rd2, rs1, rs2` (R208). -/
  | bdivrem (rd rd2 rs1 rs2 : Reg)
  /-- `BMOD rd, rs1, rs2` (R209). -/
  | bmod (rd rs1 rs2 : Reg)
  /-- `BCMP rs1, rs2` (R210). -/
  | bcmp (rs1 rs2 : Reg)
  /-- `BSHL rd, rs1, k` (R211). -/
  | bshl (rd rs1 : Reg) (k : BitVec 32)
  /-- `BSHR rd, rs1, k` (R212). -/
  | bshr (rd rs1 : Reg) (k : BitVec 32)
  /-- `BBITLEN rs1` (R213). -/
  | bbitlen (rs1 : Reg)
  /-- `BLOAD rd`, flags `.le` and `.neg` (R230). -/
  | bload (rd : Reg) (le neg : Bool)
  /-- `BSTORE rs1`, flag `.le` (R231). -/
  | bstore (rs1 : Reg) (le : Bool)
  /-- `BFROMDEC rd` (R232). -/
  | bfromdec (rd : Reg)
  /-- `BTODEC rs1` (R233). -/
  | btodec (rs1 : Reg)
  /-- `BMODMUL rd, rs1, rs2, rs3` (R301). -/
  | bmodmul (rd rs1 rs2 rs3 : Reg)
  /-- `BMODEXP rd, rs1, rs2, rs3` (R302). -/
  | bmodexp (rd rs1 rs2 rs3 : Reg)
  /-- `BGCD rd, rs1, rs2` (R303). -/
  | bgcd (rd rs1 rs2 : Reg)
  /-- `BEXTGCD rd, rd2, rd3, rs1, rs2`; `rd3` is the RS3 field (R151, R304). -/
  | bextgcd (rd rd2 rd3 rs1 rs2 : Reg)
  /-- `BMODINV rd, rs1, rs2` (R305). -/
  | bmodinv (rd rs1 rs2 : Reg)
  /-- `QRTEST rs1, rs2` (R306). -/
  | qrtest (rs1 rs2 : Reg)
  /-- `SQRTMOD rd, rs1, rs2` (R307). -/
  | sqrtmod (rd rs1 rs2 : Reg)
  /-- `RANDBITS rd, n`, flag `.odd` (R351). -/
  | randbits (rd : Reg) (odd : Bool) (n : BitVec 32)
  /-- `RANDRANGE rd, rs1, rs2` (R352). -/
  | randrange (rd rs1 rs2 : Reg)
  /-- `RANDBYTES`, flag `.nz` (R353). -/
  | randbytes (nz : Bool)
  /-- `MRTEST rs1, k`, flag `.td` (R354). -/
  | mrtest (rs1 : Reg) (td : Bool) (k : BitVec 32)
  /-- `PRIMEGEN rd, bits, rounds` (R355). -/
  | primegen (rd : Reg) (bits rounds : BitVec 16)
  /-- `AESBLK keylen`, flag `.dec` (R420). -/
  | aesblk (dec : Bool) (keylen : BitVec 32)
  /-- `AESENCS ctx, mode, keylen` (R460). -/
  | aesencs (k : CtxIx) (mode : Mode) (keylen : BitVec 32)
  /-- `AESENCC ctx` (R461). -/
  | aesencc (k : CtxIx)
  /-- `AESDECS ctx, mode, keylen` (R462). -/
  | aesdecs (k : CtxIx) (mode : Mode) (keylen : BitVec 32)
  /-- `AESDECC ctx` (R463). -/
  | aesdecc (k : CtxIx)
  /-- `AESCLR ctx` (R464). -/
  | aesclr (k : CtxIx)
  /-- `AESLEN mode, dir, first` (R465). -/
  | aeslen (mode : Mode) (dir : Dir) (first : Bool)
deriving DecidableEq, Repr

end Sys2Proof
end

