-- ==== Sys2Proof/WellFormed.lean ====
section
/-! DEFINITION. Which instruction terms a command word can stand for: the destination checks of the
decode function (R159). The index bounds of R159 are in the types `Reg` and `CtxIx`, and the reserved
mode codes of R451 have no constructor in `Mode`. -/

namespace Sys2Proof

/-- R159, R510: BDIVREM needs `RD ≠ RD2`, and BEXTGCD pairwise distinct RD, RD2 and RS3. Every other
term is well formed. -/
def Instr.wellFormed : Instr → Bool
  | .bdivrem rd rd2 _ _ => rd != rd2
  | .bextgcd rd rd2 rd3 _ _ => rd != rd2 && rd != rd3 && rd2 != rd3
  | .nop => true
  | .bseti _ _ => true
  | .bmov _ _ => true
  | .bneg _ _ => true
  | .badd _ _ _ => true
  | .bsub _ _ _ => true
  | .bmul _ _ _ => true
  | .bmod _ _ _ => true
  | .bcmp _ _ => true
  | .bshl _ _ _ => true
  | .bshr _ _ _ => true
  | .bbitlen _ => true
  | .bload _ _ _ => true
  | .bstore _ _ => true
  | .bfromdec _ => true
  | .btodec _ => true
  | .bmodmul _ _ _ _ => true
  | .bmodexp _ _ _ _ => true
  | .bgcd _ _ _ => true
  | .bmodinv _ _ _ => true
  | .qrtest _ _ => true
  | .sqrtmod _ _ _ => true
  | .randbits _ _ _ => true
  | .randrange _ _ _ => true
  | .randbytes _ => true
  | .mrtest _ _ _ => true
  | .primegen _ _ _ => true
  | .aesblk _ _ => true
  | .aesencs _ _ _ => true
  | .aesencc _ => true
  | .aesdecs _ _ _ => true
  | .aesdecc _ => true
  | .aesclr _ => true
  | .aeslen _ _ _ => true

end Sys2Proof
end

