-- ==== Sys2Proof/Decode.lean ====
section
/-! DEFINITION. The command word: its fields (R151), the opcode map (R157), the formats (R156), the
decode function, total on every word (R159), and the encoder (R158). -/

namespace Sys2Proof

/-- The fields of a command word (R151). -/
structure Fields where
  opc : BitVec 8
  rd : BitVec 4
  rs1 : BitVec 4
  rs2 : BitVec 4
  rs3 : BitVec 4
  rd2 : BitVec 4
  fl : BitVec 4
  imm : BitVec 32
deriving DecidableEq, Repr

/-- The field layout of R151: OPC 7:0, RD 11:8, RS1 15:12, RS2 19:16, RS3 23:20, RD2 27:24, FL 31:28,
IMM 63:32. -/
def Fields.ofWord (w : Word) : Fields where
  opc := w.extractLsb' 0 8
  rd := w.extractLsb' 8 4
  rs1 := w.extractLsb' 12 4
  rs2 := w.extractLsb' 16 4
  rs3 := w.extractLsb' 20 4
  rd2 := w.extractLsb' 24 4
  fl := w.extractLsb' 28 4
  imm := w.extractLsb' 32 32

/-- The encoding function of R158, `w = opc | rd<<8 | rs1<<12 | … | imm<<32`, written as the picture
of R151. -/
def Fields.toWord (f : Fields) : Word :=
  ((((((((f.imm ++ f.fl : BitVec 36) ++ f.rd2 : BitVec 40) ++ f.rs3 : BitVec 44) ++ f.rs2 : BitVec 48)
    ++ f.rs1 : BitVec 52) ++ f.rd : BitVec 56)) ++ f.opc : BitVec 64)

/-- The mnemonics of the opcode map (R157). -/
inductive Op where
  | nop | bseti | bmov | bneg | badd | bsub | bmul | bdivrem | bmod | bcmp | bshl | bshr | bbitlen
  | bload | bstore | bfromdec | btodec
  | bmodmul | bmodexp | bgcd | bextgcd | bmodinv | qrtest | sqrtmod
  | randbits | randrange | randbytes | mrtest | primegen
  | aesblk | aesencs | aesencc | aesdecs | aesdecc | aesclr | aeslen
deriving DecidableEq, Repr

/-- The OPC column of R157. -/
def Op.code : Op → BitVec 8
  | .nop => 0x00 | .bseti => 0x01 | .bmov => 0x02 | .bneg => 0x03
  | .badd => 0x04 | .bsub => 0x05 | .bmul => 0x06 | .bdivrem => 0x07
  | .bmod => 0x08 | .bcmp => 0x09 | .bshl => 0x0A | .bshr => 0x0B | .bbitlen => 0x0C
  | .bload => 0x10 | .bstore => 0x11 | .bfromdec => 0x12 | .btodec => 0x13
  | .bmodmul => 0x20 | .bmodexp => 0x21 | .bgcd => 0x22 | .bextgcd => 0x23
  | .bmodinv => 0x24 | .qrtest => 0x25 | .sqrtmod => 0x26
  | .randbits => 0x30 | .randrange => 0x31 | .randbytes => 0x32 | .mrtest => 0x33
  | .primegen => 0x34
  | .aesblk => 0x40 | .aesencs => 0x41 | .aesencc => 0x42 | .aesdecs => 0x43
  | .aesdecc => 0x44 | .aesclr => 0x45 | .aeslen => 0x46

/-- The rows of R157 in order. -/
def Op.all : List Op :=
  [Op.nop, Op.bseti, Op.bmov, Op.bneg, Op.badd, Op.bsub, Op.bmul, Op.bdivrem, Op.bmod, Op.bcmp,
    Op.bshl, Op.bshr, Op.bbitlen]
  ++ [Op.bload, Op.bstore, Op.bfromdec, Op.btodec]
  ++ [Op.bmodmul, Op.bmodexp, Op.bgcd, Op.bextgcd, Op.bmodinv, Op.qrtest, Op.sqrtmod]
  ++ [Op.randbits, Op.randrange, Op.randbytes, Op.mrtest, Op.primegen]
  ++ [Op.aesblk, Op.aesencs, Op.aesencc, Op.aesdecs, Op.aesdecc, Op.aesclr, Op.aeslen]

/-- The row of an OPC value; `none` is a reserved value (R160). -/
def Op.ofCode (c : BitVec 8) : Option Op := Op.all.find? fun o => o.code == c

/-- The formats of R156. -/
inductive Format where
  | n | i | r1 | r2 | r3 | d2 | d3 | c1 | c2 | sh | ml | ms | mr | pg | rb | ab | as | ac | ax | al
deriving DecidableEq, Repr

/-- The format column of R157. -/
def Op.format : Op → Format
  | .nop => .n | .bseti => .i | .bmov => .r1 | .bneg => .r1
  | .badd => .r2 | .bsub => .r2 | .bmul => .r2 | .bdivrem => .d2
  | .bmod => .r2 | .bcmp => .c2 | .bshl => .sh | .bshr => .sh | .bbitlen => .c1
  | .bload => .ml | .bstore => .ms | .bfromdec => .ml | .btodec => .ms
  | .bmodmul => .r3 | .bmodexp => .r3 | .bgcd => .r2 | .bextgcd => .d3
  | .bmodinv => .r2 | .qrtest => .c2 | .sqrtmod => .r2
  | .randbits => .i | .randrange => .r2 | .randbytes => .rb | .mrtest => .mr | .primegen => .pg
  | .aesblk => .ab | .aesencs => .as | .aesencc => .ac | .aesdecs => .as
  | .aesdecc => .ac | .aesclr => .ax | .aeslen => .al

/-- Which of the fields RD, RS1, RS2, RS3 and RD2 a format uses, in that order (R156). -/
def Format.uses : Format → Bool × Bool × Bool × Bool × Bool
  | .n => (false, false, false, false, false)
  | .i => (true, false, false, false, false)
  | .r1 => (true, true, false, false, false)
  | .r2 => (true, true, true, false, false)
  | .r3 => (true, true, true, true, false)
  | .d2 => (true, true, true, false, true)
  | .d3 => (true, true, true, true, true)
  | .c1 => (false, true, false, false, false)
  | .c2 => (false, true, true, false, false)
  | .sh => (true, true, false, false, false)
  | .ml => (true, false, false, false, false)
  | .ms => (false, true, false, false, false)
  | .mr => (false, true, false, false, false)
  | .pg => (true, false, false, false, false)
  | .rb => (false, false, false, false, false)
  | .ab => (false, false, false, false, false)
  | .as => (true, false, false, false, false)
  | .ac => (true, false, false, false, false)
  | .ax => (true, false, false, false, false)
  | .al => (false, false, false, false, false)

/-- The FL bits that must be 0: those R153 does not list for the opcode. -/
def Op.flReserved : Op → BitVec 4
  | .bload => 0b1100
  | .bstore | .randbits | .randbytes | .mrtest | .aesblk => 0b1110
  | .aesencs | .aesdecs | .aeslen => 0b1000
  | _ => 0b1111

/-- The IMM bits that must be 0: all of them where R154 gives the opcode no immediate, and AESLEN's
`IMM[31:2]`. -/
def Op.immReserved : Op → BitVec 32
  | .bseti | .bshl | .bshr | .randbits | .mrtest | .primegen | .aesblk | .aesencs | .aesdecs => 0
  | .aeslen => 0xFFFFFFFC
  | _ => 0xFFFFFFFF

/-- Why a word does not decode (R159, R510). Each completes the command with IllegalCommand. -/
inductive Illegal where
  /-- OPC is not in the map (R160). -/
  | reservedOpcode
  /-- An unused field or a reserved bit is not 0 (R155). -/
  | unusedField
  /-- A used context field is `>= N_CTX` (R152). -/
  | indexRange
  /-- The mode code is 5, 6 or 7 (R451). -/
  | reservedMode
  /-- BDIVREM with `RD = RD2`, or BEXTGCD destinations not pairwise distinct (R159). -/
  | sameDestination
deriving DecidableEq, Repr

/-- R155: every field the format does not use and every reserved bit is 0. -/
def Fields.unusedZero (f : Fields) (op : Op) : Bool :=
  let (rd, rs1, rs2, rs3, rd2) := op.format.uses
  (rd || f.rd == 0) && (rs1 || f.rs1 == 0) && (rs2 || f.rs2 == 0) && (rs3 || f.rs3 == 0)
    && (rd2 || f.rd2 == 0) && f.fl &&& op.flReserved == 0 && f.imm &&& op.immReserved == 0

/-- A 4-bit register field; with `N_BREG = 16` every value is in range (R152). -/
def regOf (x : BitVec 4) : Reg := ⟨x.toNat, x.isLt⟩

/-- A 4-bit context field, in range below `N_CTX` (R152). -/
def ctxOf (x : BitVec 4) : Except Illegal CtxIx :=
  if h : x.toNat < Config.nCtx then .ok ⟨x.toNat, h⟩ else .error .indexRange

/-- The mode codes of R450. -/
def Mode.code : Mode → BitVec 3
  | .ecb => 0
  | .cbc => 1
  | .cfb => 2
  | .ofb => 3
  | .ctr => 4

/-- FL[2:0] as a mode; codes 5 to 7 are reserved (R451). -/
def modeOf (fl : BitVec 4) : Except Illegal Mode :=
  match (fl.extractLsb' 0 3).toNat with
  | 0 => .ok .ecb
  | 1 => .ok .cbc
  | 2 => .ok .cfb
  | 3 => .ok .ofb
  | 4 => .ok .ctr
  | _ => .error .reservedMode

/-- The direction bit `IMM[0]` of AESLEN (R154). -/
def dirOf (b : Bool) : Dir := if b then .dec else .enc

/-- The instruction of a row from its fields, with the index, mode and destination checks of R159. -/
def Op.assemble (op : Op) (f : Fields) : Except Illegal Instr :=
  match op with
  | .nop => .ok .nop
  | .bseti => .ok (.bseti (regOf f.rd) f.imm)
  | .bmov => .ok (.bmov (regOf f.rd) (regOf f.rs1))
  | .bneg => .ok (.bneg (regOf f.rd) (regOf f.rs1))
  | .badd => .ok (.badd (regOf f.rd) (regOf f.rs1) (regOf f.rs2))
  | .bsub => .ok (.bsub (regOf f.rd) (regOf f.rs1) (regOf f.rs2))
  | .bmul => .ok (.bmul (regOf f.rd) (regOf f.rs1) (regOf f.rs2))
  | .bdivrem =>
    if f.rd = f.rd2 then .error .sameDestination
    else .ok (.bdivrem (regOf f.rd) (regOf f.rd2) (regOf f.rs1) (regOf f.rs2))
  | .bmod => .ok (.bmod (regOf f.rd) (regOf f.rs1) (regOf f.rs2))
  | .bcmp => .ok (.bcmp (regOf f.rs1) (regOf f.rs2))
  | .bshl => .ok (.bshl (regOf f.rd) (regOf f.rs1) f.imm)
  | .bshr => .ok (.bshr (regOf f.rd) (regOf f.rs1) f.imm)
  | .bbitlen => .ok (.bbitlen (regOf f.rs1))
  | .bload => .ok (.bload (regOf f.rd) (f.fl.getLsbD 0) (f.fl.getLsbD 1))
  | .bstore => .ok (.bstore (regOf f.rs1) (f.fl.getLsbD 0))
  | .bfromdec => .ok (.bfromdec (regOf f.rd))
  | .btodec => .ok (.btodec (regOf f.rs1))
  | .bmodmul => .ok (.bmodmul (regOf f.rd) (regOf f.rs1) (regOf f.rs2) (regOf f.rs3))
  | .bmodexp => .ok (.bmodexp (regOf f.rd) (regOf f.rs1) (regOf f.rs2) (regOf f.rs3))
  | .bgcd => .ok (.bgcd (regOf f.rd) (regOf f.rs1) (regOf f.rs2))
  | .bextgcd =>
    if f.rd = f.rd2 ∨ f.rd = f.rs3 ∨ f.rd2 = f.rs3 then .error .sameDestination
    else .ok (.bextgcd (regOf f.rd) (regOf f.rd2) (regOf f.rs3) (regOf f.rs1) (regOf f.rs2))
  | .bmodinv => .ok (.bmodinv (regOf f.rd) (regOf f.rs1) (regOf f.rs2))
  | .qrtest => .ok (.qrtest (regOf f.rs1) (regOf f.rs2))
  | .sqrtmod => .ok (.sqrtmod (regOf f.rd) (regOf f.rs1) (regOf f.rs2))
  | .randbits => .ok (.randbits (regOf f.rd) (f.fl.getLsbD 0) f.imm)
  | .randrange => .ok (.randrange (regOf f.rd) (regOf f.rs1) (regOf f.rs2))
  | .randbytes => .ok (.randbytes (f.fl.getLsbD 0))
  | .mrtest => .ok (.mrtest (regOf f.rs1) (f.fl.getLsbD 0) f.imm)
  | .primegen => .ok (.primegen (regOf f.rd) (f.imm.extractLsb' 0 16) (f.imm.extractLsb' 16 16))
  | .aesblk => .ok (.aesblk (f.fl.getLsbD 0) f.imm)
  | .aesencs => do
    let k ← ctxOf f.rd
    let mode ← modeOf f.fl
    .ok (.aesencs k mode f.imm)
  | .aesencc => do
    let k ← ctxOf f.rd
    .ok (.aesencc k)
  | .aesdecs => do
    let k ← ctxOf f.rd
    let mode ← modeOf f.fl
    .ok (.aesdecs k mode f.imm)
  | .aesdecc => do
    let k ← ctxOf f.rd
    .ok (.aesdecc k)
  | .aesclr => do
    let k ← ctxOf f.rd
    .ok (.aesclr k)
  | .aeslen => do
    let mode ← modeOf f.fl
    .ok (.aeslen mode (dirOf (f.imm.getLsbD 0)) (f.imm.getLsbD 1))

/-- The decode function of R159 on the fields of a word. -/
def Fields.decode (f : Fields) : Except Illegal Instr :=
  match Op.ofCode f.opc with
  | none => .error .reservedOpcode
  | some op => if f.unusedZero op then op.assemble f else .error .unusedField

/-- The decode function, total on every 64-bit word (R159). -/
def decode (w : Word) : Except Illegal Instr := (Fields.ofWord w).decode

/-- The flag bit 0 of FL. -/
def flagBit (b : Bool) : BitVec 4 := if b then 1 else 0

/-- The fields that are only an opcode, everything else 0. -/
def Op.bare (op : Op) : Fields := ⟨op.code, 0, 0, 0, 0, 0, 0, 0⟩

/-- A register or context index as a field. -/
def ixField {n : Nat} (i : Fin n) : BitVec 4 := BitVec.ofNat 4 i

/-- A mode as FL[2:0]. -/
def modeField (m : Mode) : BitVec 4 := m.code.zeroExtend 4

/-- The fields of an instruction, every unused one 0 (R155, R156). -/
def Instr.fields : Instr → Fields
  | .nop => Op.nop.bare
  | .bseti rd imm => { Op.bseti.bare with rd := ixField rd, imm := imm }
  | .bmov rd rs1 => { Op.bmov.bare with rd := ixField rd, rs1 := ixField rs1 }
  | .bneg rd rs1 => { Op.bneg.bare with rd := ixField rd, rs1 := ixField rs1 }
  | .badd rd rs1 rs2 =>
    { Op.badd.bare with rd := ixField rd, rs1 := ixField rs1, rs2 := ixField rs2 }
  | .bsub rd rs1 rs2 =>
    { Op.bsub.bare with rd := ixField rd, rs1 := ixField rs1, rs2 := ixField rs2 }
  | .bmul rd rs1 rs2 =>
    { Op.bmul.bare with rd := ixField rd, rs1 := ixField rs1, rs2 := ixField rs2 }
  | .bdivrem rd rd2 rs1 rs2 =>
    { Op.bdivrem.bare with
      rd := ixField rd, rd2 := ixField rd2, rs1 := ixField rs1, rs2 := ixField rs2 }
  | .bmod rd rs1 rs2 =>
    { Op.bmod.bare with rd := ixField rd, rs1 := ixField rs1, rs2 := ixField rs2 }
  | .bcmp rs1 rs2 => { Op.bcmp.bare with rs1 := ixField rs1, rs2 := ixField rs2 }
  | .bshl rd rs1 k => { Op.bshl.bare with rd := ixField rd, rs1 := ixField rs1, imm := k }
  | .bshr rd rs1 k => { Op.bshr.bare with rd := ixField rd, rs1 := ixField rs1, imm := k }
  | .bbitlen rs1 => { Op.bbitlen.bare with rs1 := ixField rs1 }
  | .bload rd le neg =>
    { Op.bload.bare with rd := ixField rd, fl := flagBit le ||| flagBit neg <<< 1 }
  | .bstore rs1 le => { Op.bstore.bare with rs1 := ixField rs1, fl := flagBit le }
  | .bfromdec rd => { Op.bfromdec.bare with rd := ixField rd }
  | .btodec rs1 => { Op.btodec.bare with rs1 := ixField rs1 }
  | .bmodmul rd rs1 rs2 rs3 =>
    { Op.bmodmul.bare with
      rd := ixField rd, rs1 := ixField rs1, rs2 := ixField rs2, rs3 := ixField rs3 }
  | .bmodexp rd rs1 rs2 rs3 =>
    { Op.bmodexp.bare with
      rd := ixField rd, rs1 := ixField rs1, rs2 := ixField rs2, rs3 := ixField rs3 }
  | .bgcd rd rs1 rs2 =>
    { Op.bgcd.bare with rd := ixField rd, rs1 := ixField rs1, rs2 := ixField rs2 }
  | .bextgcd rd rd2 rd3 rs1 rs2 =>
    { Op.bextgcd.bare with
      rd := ixField rd, rd2 := ixField rd2, rs3 := ixField rd3,
      rs1 := ixField rs1, rs2 := ixField rs2 }
  | .bmodinv rd rs1 rs2 =>
    { Op.bmodinv.bare with rd := ixField rd, rs1 := ixField rs1, rs2 := ixField rs2 }
  | .qrtest rs1 rs2 => { Op.qrtest.bare with rs1 := ixField rs1, rs2 := ixField rs2 }
  | .sqrtmod rd rs1 rs2 =>
    { Op.sqrtmod.bare with rd := ixField rd, rs1 := ixField rs1, rs2 := ixField rs2 }
  | .randbits rd odd n => { Op.randbits.bare with rd := ixField rd, fl := flagBit odd, imm := n }
  | .randrange rd rs1 rs2 =>
    { Op.randrange.bare with rd := ixField rd, rs1 := ixField rs1, rs2 := ixField rs2 }
  | .randbytes nz => { Op.randbytes.bare with fl := flagBit nz }
  | .mrtest rs1 td k => { Op.mrtest.bare with rs1 := ixField rs1, fl := flagBit td, imm := k }
  | .primegen rd bits rounds => { Op.primegen.bare with rd := ixField rd, imm := rounds ++ bits }
  | .aesblk dec keylen => { Op.aesblk.bare with fl := flagBit dec, imm := keylen }
  | .aesencs k mode keylen =>
    { Op.aesencs.bare with rd := ixField k, fl := modeField mode, imm := keylen }
  | .aesencc k => { Op.aesencc.bare with rd := ixField k }
  | .aesdecs k mode keylen =>
    { Op.aesdecs.bare with rd := ixField k, fl := modeField mode, imm := keylen }
  | .aesdecc k => { Op.aesdecc.bare with rd := ixField k }
  | .aesclr k => { Op.aesclr.bare with rd := ixField k }
  | .aeslen mode dir first =>
    { Op.aeslen.bare with
      fl := modeField mode
      imm := (if dir = .dec then 1 else 0) ||| (if first then 2 else 0) }

/-- The command word of a well-formed instruction (R158). -/
def encode (i : Instr) : Word := i.fields.toWord

/-- The instruction the decoder reads from a row of the opcode table whose bits are `w`; a command has
one word of 64 bits, and the bits above `nbits` are 0. -/
def decodeTableWord (nbits w : Nat) : Option Instr :=
  let v := w % 2 ^ nbits
  if v < 2 ^ 64 then (decode (BitVec.ofNat 64 v)).toOption else none

end Sys2Proof
end

