-- ==== Sys2Proof/Machine/State.lean ====
section
/-! DEFINITION. The state of the core as plain data: everything the spec gives it (10_state.md,
20_memory.md) and three fields of the model's own that stand for the world outside (`events`, `resp`,
`draws`), with the state right after reset (R551). -/

namespace Sys2Proof.Machine

/-- The error codes of R501 that a command can end with. -/
inductive ErrCode where
  /-- 1: the word does not decode (R510). -/
  | illegalCommand
  /-- 2: a divisor or modulus is 0. -/
  | divisionByZero
  /-- 3: `gcd(a, m) ≠ 1` in a modular inverse. -/
  | noInverse
  /-- 4: the AES key length is not 16, 24 or 32. -/
  | keySizeRange
  /-- 5: the destination capacity is below the output length. -/
  | bufferTooSmall
  /-- 6: an input byte string has length 0. -/
  | emptyBuffer
  /-- 7: a ciphertext length or a pad byte is invalid. -/
  | encryptedDataInvalid
  /-- 8: entropy failure, a detected composite modulus, or the PRIMEGEN bound. -/
  | functionFailed
  /-- 9: a register result `v` has `|v| >= CAP`. -/
  | capacityExceeded
  /-- 10: a buffer range ends beyond `BUF_BYTES`. -/
  | addressRange
  /-- 11: Continue on an inactive context or one of the other direction. -/
  | streamNotStarted
  /-- 12: an operand is outside the operation's domain. -/
  | domainError
  /-- 13: a decimal string is outside the grammar. -/
  | parseError
deriving DecidableEq, Repr

/-- Four bytes: column `c` of the AES state, `s[0][c]` to `s[3][c]` (R404), or a key-schedule word
`[w0, w1, w2, w3]` (R406). -/
structure Column where
  b0 : Byte
  b1 : Byte
  b2 : Byte
  b3 : Byte
deriving DecidableEq, Repr

/-- Sixteen bytes as four columns. In buffer order byte `r + 4c` is byte `r` of column `c` (R404). -/
structure Block where
  c0 : Column
  c1 : Column
  c2 : Column
  c3 : Column
deriving DecidableEq, Repr

/-- The column of four zero bytes. -/
def Column.zero : Column := ⟨0, 0, 0, 0⟩

/-- The block of sixteen zero bytes. -/
def Block.zero : Block := ⟨.zero, .zero, .zero, .zero⟩

/-- One AES stream context (R50). -/
structure Ctx where
  active : Bool
  dir : Dir
  mode : Mode
  /-- The key length in bytes; 0 when inactive. -/
  keylen : Nat
  /-- The key; bytes at or above `keylen` are 0. -/
  key : Vector Byte 32
  /-- The feedback value (R455), sixteen bytes in buffer order (R404). -/
  fb : Block
deriving DecidableEq, Repr

/-- The reset value of a context (R50). -/
def Ctx.reset : Ctx where
  active := false
  dir := .enc
  mode := .ecb
  keylen := 0
  key := Vector.replicate 32 0
  fb := .zero

/-- The argument registers ARG0 to ARG4 (R46), and their latched copy (R36). -/
structure Args where
  arg0 : Word
  arg1 : Word
  arg2 : Word
  arg3 : Word
  arg4 : Word
deriving DecidableEq, Repr

/-- The sequencer (R36): `Idle`, or `Busy(w, a)` with the accepted word and the latched arguments. -/
inductive Seq where
  | idle
  | busy (w : Word) (a : Args)
deriving DecidableEq, Repr

/-- The byte buffer BUF (R100): the written bytes by offset, in one canonical form (`Memory.wf`). An
offset that is not listed is unwritten (R555, log 1). -/
abbrev Memory := List Host.Cell

/-- A host bus access at a block offset, `width` in bytes (R40, R110, R111). -/
inductive Access where
  | read (offset width : Nat)
  | write (offset width : Nat) (data : Word)
deriving DecidableEq, Repr

/-- One event of the total order of R117 and R512 (log 4). -/
inductive Event where
  /-- A host access arrives at the core's port. -/
  | access (a : Access)
  /-- The sequencer, if `Busy`, takes its completion step (R37). -/
  | complete
  /-- The platform asserts `rst` (R550). -/
  | rstAssert
  /-- The platform releases `rst` (R550). -/
  | rstRelease
deriving DecidableEq, Repr

/-- What the host port answered to the last access (log 6). -/
inductive Resp where
  /-- No access was answered since reset. -/
  | none
  /-- An accepted read, with its data. -/
  | data (v : Word)
  /-- An accepted write. -/
  | ack
  /-- A bus error (R110, R111, R113, R505): the error response; read data, if any is sampled, is 0. -/
  | error
  /-- The offset is not decoded by the core (R40, U7): the platform decides. -/
  | notDecoded
deriving DecidableEq, Repr

/-- The agents that can read an unwritten byte (R21, R555). -/
inductive Agent where
  | host
  | core
deriving DecidableEq, Repr

/-- The state of the core. -/
structure State where
  /-- `b0` to `b15` (R30). -/
  regs : Vector Int Config.nBreg
  /-- `ctx0` to `ctx7` (R50). -/
  ctxs : Vector Ctx Config.nCtx
  /-- BUF (R100). -/
  buf : Memory
  /-- The sequencer (R36). -/
  seq : Seq
  /-- CTRL.IRQ_EN (R43). -/
  irqEn : Bool
  /-- STATUS.DONE (R44). -/
  done : Bool
  /-- STATUS.DROPPED (R44). -/
  dropped : Bool
  /-- STATUS.ERRCODE (R44). -/
  errcode : Byte
  /-- CMD_LAST (R45). -/
  cmdLast : Word
  /-- ARG0 to ARG4 (R46). -/
  args : Args
  /-- RES0 (R47). -/
  res0 : Word
  /-- RES1 (R47). -/
  res1 : Word
  /-- The level of the reset input `rst` (R550). -/
  rst : Bool
  /-- The model's own: the events still to come, first first (R117, log 4). -/
  events : List Event
  /-- The model's own: the host port's last answer (log 6). -/
  resp : Resp
  /-- The model's own: how many draws the entropy source has supplied (R60, log 2, log 3). -/
  draws : Nat
deriving DecidableEq, Repr

/-- Why the machine stops. -/
inductive Fault where
  /-- R555, U10: `agent` reads the byte of BUF at `offset`, which nothing has written. Raised by a
  command's MemRead (agent core) and by a host window read (agent host). SAFE: the hardware goes on with
  an unspecified value, the model says nothing of it (log 1). -/
  | unwrittenRead (agent : Agent) (offset : Nat)
deriving DecidableEq, Repr

/-- Why an instruction is refused. -/
inductive Refusal where
  /-- The instruction has no meaning in the model yet: raised by no arm of `exec` now. SAFE. -/
  | notModelled (mnemonic : String)
deriving DecidableEq, Repr

/-- The machine right after a hardware reset, `rst` released (R550, R551). `events`, `resp` and `draws`
are the model's own and start empty (DESIGN CHOICE, log 3, log 4, log 6). -/
def State.reset : State where
  regs := Vector.replicate Config.nBreg 0
  ctxs := Vector.replicate Config.nCtx .reset
  buf := []
  seq := .idle
  irqEn := false
  done := false
  dropped := false
  errcode := 0
  cmdLast := 0
  args := ⟨0, 0, 0, 0, 0⟩
  res0 := 0
  res1 := 0
  rst := false
  events := []
  resp := .none
  draws := 0

end Sys2Proof.Machine
end

