-- ==== Sys2Proof/Machine/Bytes.lean ====
section
/-! DEFINITION. Byte strings as integers (R16): `LE`, `BE`, `toLE`, `toBE`, bit and byte lengths, and
the decimal strings of R232 and R233. -/

namespace Sys2Proof.Machine

/-- `LE(s) = sum s[i]*256^i` (R16). -/
def leValue : List Byte → Nat
  | [] => 0
  | b :: s => b.toNat + 256 * leValue s

/-- `BE(s) = sum s[i]*256^(|s|-1-i)` (R16). -/
def beValue (s : List Byte) : Nat := leValue s.reverse

/-- `toLE(v, n)`: the `n` low bytes of `v`, least significant first (R16, R107). -/
def toLE (v : Nat) : Nat → List Byte
  | 0 => []
  | n + 1 => BitVec.ofNat 8 v :: toLE (v / 256) n

/-- `toBE(v, n)`: the same bytes, most significant first (R16). -/
def toBE (v n : Nat) : List Byte := (toLE v n).reverse

/-- The least `n` with `v < 2^n` (R213). -/
def bitLen (v : Nat) : Nat := if v = 0 then 0 else v.log2 + 1

/-- `byteLen(v)`: the least `n` with `v < 256^n` (R16); DEDUCED form, eight bits a byte (log 13). -/
def byteLen (v : Nat) : Nat := (bitLen v + 7) / 8

/-- The decimal digits of `v` in front of `acc`, as ASCII; `fuel >= v` suffices (log 13). -/
def decimalOnto : (fuel v : Nat) → List Byte → List Byte
  | 0, _, acc => acc
  | fuel + 1, v, acc =>
    if v = 0 then acc else decimalOnto fuel (v / 10) (BitVec.ofNat 8 (0x30 + v % 10) :: acc)

/-- The decimal digits of `v` with no leading zero, "0" for 0 (R233). -/
def decimalDigits (v : Nat) : List Byte := if v = 0 then [0x30] else decimalOnto v v []

/-- The decimal string of `v`, with '-' (0x2D) in front of a negative value's digits (R233). -/
def decimalString (v : Int) : List Byte :=
  if v < 0 then 0x2D :: decimalDigits v.natAbs else decimalDigits v.natAbs

/-- Whether a byte is an ASCII digit, 0x30 to 0x39 (R232). -/
def isDigit (b : Byte) : Bool := 0x30 ≤ b.toNat && b.toNat ≤ 0x39

/-- The value of a digit string, most significant first (R232). -/
def digitsValue (s : List Byte) : Nat := s.foldl (fun acc b => acc * 10 + (b.toNat - 0x30)) 0

/-- The integer of a decimal string of the grammar `'-'? [0-9]+`; `none` outside it (R232). -/
def parseDecimal (s : List Byte) : Option Int :=
  let neg := s.head? == some 0x2D
  let digits := if neg then s.tail else s
  if digits.isEmpty || !digits.all isDigit then none
  else some (if neg then -(digitsValue digits : Int) else digitsValue digits)

end Sys2Proof.Machine
end

