-- ==== Sys2Proof/Machine/Ops.lean ====
section
/-! DEFINITION. The operations every command shares: the buffer (R103 to R106), the register file and the
contexts (R30, R50, R200), the entropy draws (R60, R61), completion with success and with an error
(R500 to R503, R521), and the resets (R550 to R553). -/

namespace Sys2Proof.Machine

/-! ## The byte buffer -/

/-- `BUF[a]`, or `none` where nothing has written it (R555). -/
def memGet : Memory → Nat → Option Byte
  | [], _ => none
  | (k, v) :: m, a => if a = k then some v else if a < k then none else memGet m a

/-- `BUF[a] <- v` (R104), keeping the offsets strictly rising. -/
def memSet : Memory → Nat → Byte → Memory
  | [], a, v => [(a, v)]
  | (k, w) :: m, a, v =>
    if a = k then (a, v) :: m else if a < k then (a, v) :: (k, w) :: m else (k, w) :: memSet m a v

/-- `MemWrite(a, |s|, s)` (R104). -/
def memWrite : Memory → Nat → List Byte → Memory
  | m, _, [] => m
  | m, a, b :: s => memWrite (memSet m a b) (a + 1) s

/-- `MemRead(a, n)` by `agent` (R104); reading an unwritten byte is that agent's fault (R555). -/
def memRead (agent : Agent) (m : Memory) : (a n : Nat) → Except Fault (List Byte)
  | _, 0 => .ok []
  | a, n + 1 =>
    match memGet m a with
    | none => .error (.unwrittenRead agent a)
    | some b =>
      match memRead agent m (a + 1) n with
      | .ok s => .ok (b :: s)
      | .error f => .error f

/-- The canonical form of the buffer: offsets strictly rising, all of them in BUF (R100, log 1). An
unlisted byte is unwritten, so no entry can equal what an unlisted byte reads as. -/
abbrev Memory.wf (m : Memory) : Prop :=
  m.Pairwise (fun a b => a.1 < b.1) ∧ ∀ c ∈ m, c.1 < Config.bufBytes

/-- A range is valid iff `addr + n <= BUF_BYTES`, in unbounded integers (R103). -/
def rangeOk (addr n : Nat) : Bool := addr + n ≤ Config.bufBytes

/-! ## Ending a command -/

/-- The number of an error code (R501). -/
def ErrCode.code : ErrCode → Byte
  | .illegalCommand => 1
  | .divisionByZero => 2
  | .noInverse => 3
  | .keySizeRange => 4
  | .bufferTooSmall => 5
  | .emptyBuffer => 6
  | .encryptedDataInvalid => 7
  | .functionFailed => 8
  | .capacityExceeded => 9
  | .addressRange => 10
  | .streamNotStarted => 11
  | .domainError => 12
  | .parseError => 13

/-- What ends a command's evaluation early: `raise E` (R500), or the core's fault (R555). -/
inductive Stop where
  | raise (e : ErrCode)
  | fault (f : Fault)
deriving DecidableEq, Repr

/-- Completion with success (R502): the new state is installed, ERRCODE is 0, DONE is 1 and the
sequencer is `Idle`. -/
def State.succeed (t : State) : State := { t with errcode := 0, done := true, seq := .idle }

/-- TAKING AN ERROR (R503, R521): completion with error `e`. ERRCODE becomes the code, DONE becomes 1,
the sequencer returns to `Idle`; no register, context, buffer byte or result register changes. The
interrupt follows DONE (R520); there is no vector and no mode to change. -/
def State.fail (s : State) (e : ErrCode) : State :=
  { s with errcode := e.code, done := true, seq := .idle }

/-- The completion step of a command whose `Exec` gives `r` (R37, R500, R502, R503): the state computed
by the command is dropped on an error (R18). -/
def State.complete (s : State) : Except ErrCode State → State
  | .ok t => t.succeed
  | .error e => s.fail e

/-- The completion step of a command that reads the buffer: `reading` checks the operands and reads
them, in the order of the command's pseudocode, and `k` completes from what was read. -/
def State.finish {α : Type} (s : State) (reading : Except Stop α) (k : α → State) :
    Host.Outcome State Fault Refusal :=
  match reading with
  | .ok x => .next (k x)
  | .error (.raise e) => .next (s.fail e)
  | .error (.fault f) => .fault f

/-- RETURN (R520, R522): the host's write of 1 to STATUS.DONE clears it, which drops `irq`. There is no
other return from an error or an interrupt. -/
def State.clearDone (s : State) : State := { s with done := false }

/-- `raise e` unless `c` (R500), in a computation that cannot fault. -/
def need (c : Bool) (e : ErrCode) : Except ErrCode Unit := if c then .ok () else .error e

/-- `raise e` unless `c` (R500), in a computation that also reads the buffer. -/
def require (c : Bool) (e : ErrCode) : Except Stop Unit := if c then .ok () else .error (.raise e)

/-- `check range (addr, n)` (R103). -/
def checkRange (addr n : Nat) : Except Stop Unit := require (rangeOk addr n) .addressRange

/-- `MemRead(addr, n)` of a command (R104, R105, R555). -/
def State.read (s : State) (addr n : Nat) : Except Stop (List Byte) :=
  match memRead .core s.buf addr n with
  | .ok bytes => .ok bytes
  | .error f => .error (.fault f)

/-- `MemWrite(addr, |bytes|, bytes)` of a command (R104). -/
def State.write (s : State) (addr : Nat) (bytes : List Byte) : State :=
  { s with buf := memWrite s.buf addr bytes }

/-! ## Registers, contexts, results -/

/-- `b[i]` (R17, R30). -/
def State.reg (s : State) (i : Reg) : Int := s.regs[i]

/-- `b[i] <- v` without the check of R200. -/
def State.setReg (s : State) (i : Reg) (v : Int) : State := { s with regs := s.regs.set i v }

/-- Whether `|v| < CAP` (R200). -/
def fits (v : Int) : Bool := v.natAbs < Config.cap

/-- `writeReg(i, v)` (R200): CapacityExceeded unless `|v| < CAP`. -/
def State.writeReg (s : State) (i : Reg) (v : Int) : Except ErrCode State :=
  if fits v then .ok (s.setReg i v) else .error .capacityExceeded

/-- `ctx[k]` (R17, R50). -/
def State.ctx (s : State) (k : CtxIx) : Ctx := s.ctxs[k]

/-- `ctx[k] <- c` (R17, R50). -/
def State.setCtx (s : State) (k : CtxIx) (c : Ctx) : State := { s with ctxs := s.ctxs.set k c }

/-- `RES0 <- r0; RES1 <- r1` (R17, R47). -/
def State.setRes (s : State) (r0 r1 : Word) : State := { s with res0 := r0, res1 := r1 }

/-- The argument copy a command uses (R36, R45): the one latched at launch. Idle, where no command
runs, a launch at this instant would latch the ARG registers (log 9). -/
def State.latched (s : State) : Args :=
  match s.seq with
  | .busy _ a => a
  | .idle => s.args

/-! ## Entropy -/

/-- A supply of draws: what each consultation of the entropy source yields (R60, R61). -/
abbrev Source := Nat → Option Nat

/-- The value of `DrawUniform(lo, hi)` read from `r`: every integer of `[lo, hi]` is the value of some
`r` (R60). -/
def uniformOf (r : Nat) (lo hi : Int) : Int := lo + (r : Int) % (hi - lo + 1)

/-- The value of `DrawBytes(n)` read from `r`: every `n` bytes are the value of some `r` (R60). -/
def bytesOf (r n : Nat) : List Byte := toLE r n

/-- The value of `DrawNonzeroBytes(n)` read from `r`: every `n` bytes of `[1, 255]` are the value of some
`r` (R60). -/
def nonzeroBytesOf (r : Nat) : Nat → List Byte
  | 0 => []
  | n + 1 => BitVec.ofNat 8 (1 + r % 255) :: nonzeroBytesOf (r / 255) n

/-- Consultation `i` of the source; a failure report raises FunctionFailed (R61). -/
def draw (src : Source) (i : Nat) : Except ErrCode Nat :=
  match src i with
  | some r => .ok r
  | none => .error .functionFailed

/-- `DrawUniform(lo, hi)` as consultation `i` (R60). -/
def drawUniform (src : Source) (i : Nat) (lo hi : Int) : Except ErrCode Int :=
  match draw src i with
  | .ok r => .ok (uniformOf r lo hi)
  | .error e => .error e

/-- `k` draws of `DrawUniform(lo, hi)`, from consultation `i` on. -/
def drawMany (src : Source) (lo hi : Int) : (k i : Nat) → Except ErrCode (List Int)
  | 0, _ => .ok []
  | k + 1, i =>
    match drawUniform src i lo hi with
    | .error e => .error e
    | .ok a =>
      match drawMany src lo hi k (i + 1) with
      | .error e => .error e
      | .ok as => .ok (a :: as)

/-- `n` consultations are spent, by an error too, so that no later draw repeats one (R62, log 2). -/
def State.spend (s : State) (n : Nat) : State := { s with draws := s.draws + n }

/-! ## Reset -/

/-- Soft reset (R552, R553): every element but BUF takes its reset value; a running command is
abandoned. -/
def State.softReset (s : State) : State :=
  { State.reset with buf := s.buf, rst := s.rst, events := s.events, resp := s.resp, draws := s.draws }

/-- `rst` is asserted (R550, R551, R553): every element takes its reset value, BUF is unwritten (R555)
and a running command is abandoned. -/
def State.assertRst (s : State) : State :=
  { State.reset with rst := true, events := s.events, draws := s.draws }

/-- `rst` is released (R550). -/
def State.releaseRst (s : State) : State := { s with rst := false }

end Sys2Proof.Machine
end

