-- ==== Sys2Proof/Machine/Operands.lean ====
section
/-! DEFINITION. Operand assembly (R162): how each format's immediate (R154), argument registers (R156)
and key length (R405) are read. -/

namespace Sys2Proof.Machine

/-- `sext_64(IMM)` of BSETI as an integer in `[-2^31, 2^31-1]` (R154, R202). -/
def signedImm (imm : BitVec 32) : Int := imm.toInt

/-- `zext(IMM)`: a shift amount, a bit count, a round count or a key length (R154). -/
def unsignedImm (imm : BitVec 32) : Nat := imm.toNat

/-- A round count, where 0 means `MR_DEFAULT_ROUNDS` (R154, R354, R355). -/
def roundCount (k : Nat) : Nat := if k = 0 then Config.mrDefaultRounds else k

/-- The source or only buffer offset, ARG0 (R156). -/
def Args.src (a : Args) : Nat := a.arg0.toNat

/-- The input length, or BSTORE's and BTODEC's capacity, ARG1 (R156). -/
def Args.len (a : Args) : Nat := a.arg1.toNat

/-- The destination offset, ARG2 (R156). -/
def Args.dst (a : Args) : Nat := a.arg2.toNat

/-- The destination capacity, ARG3 (R156). -/
def Args.cap (a : Args) : Nat := a.arg3.toNat

/-- The key offset, ARG4 (R156). -/
def Args.keyAt (a : Args) : Nat := a.arg4.toNat

/-- The key lengths of R405. -/
def keyLenOk (n : Nat) : Bool := n == 16 || n == 24 || n == 32

/-- `if L not in {16, 24, 32}: raise KeySizeRange` (R405, R420, R460, R462). -/
def checkKeyLen (n : Nat) : Except Stop Unit := require (keyLenOk n) .keySizeRange

/-- The input byte string of BLOAD and BFROMDEC: range, then EmptyBuffer, then MemRead (R230, R232). -/
def State.input (s : State) : Except Stop (List Byte) := do
  let a := s.latched
  checkRange a.src a.len
  require (a.len != 0) .emptyBuffer
  s.read a.src a.len

end Sys2Proof.Machine
end

