-- ==== Sys2Proof/Machine/Flags.lean ====
section
/-! DEFINITION. The core has no condition flags (R35). What stands in their place: the scalar outcomes
written to RES0 and RES1 (R47), the STATUS word (R44), the other register words the host reads (R41 to
R43) and the interrupt output (R48, R520). -/

namespace Sys2Proof.Machine

/-- A bit as a number. -/
def bit (b : Bool) : Nat := if b then 1 else 0

/-- A signed scalar outcome: its 64-bit two's-complement encoding (R47). -/
def signedRes (v : Int) : Word := BitVec.ofInt 64 v

/-- An unsigned scalar outcome, modulo 2^64 (R47, R465). -/
def natRes (n : Nat) : Word := BitVec.ofNat 64 n

/-- A verdict as 1 or 0. -/
def boolRes (b : Bool) : Word := natRes (bit b)

/-- The comparison outcome of BCMP: -1, 0 or +1 (R210). -/
def compareRes (a b : Int) : Int := if a < b then -1 else if a = b then 0 else 1

/-- STATUS.BUSY: 1 while the sequencer is `Busy` (R44). -/
def State.busy (s : State) : Bool :=
  match s.seq with
  | .idle => false
  | .busy _ _ => true

/-- STATUS.ERR: `ERRCODE != 0` (R44). -/
def State.err (s : State) : Bool := s.errcode != 0

/-- The STATUS word (R44): BUSY 0, DONE 1, DROPPED 2, ERR 3, ERRCODE 15:8, the rest 0. -/
def State.statusWord (s : State) : Word :=
  BitVec.ofNat 64
    (bit s.busy + 2 * bit s.done + 4 * bit s.dropped + 8 * bit s.err + 256 * s.errcode.toNat)

/-- The CTRL word (R43): IRQ_EN in bit 0; SOFT_RESET reads as 0. -/
def State.ctrlWord (s : State) : Word := BitVec.ofNat 64 (bit s.irqEn)

/-- The ID word (R41): MAGIC "VCSC" in 31:0, CMDSET_VERSION 1 in 47:32. -/
def idWord : Word := BitVec.ofNat 64 (0x56435343 + 0x0001 * 2 ^ 32)

/-- The PARAM word (R42): N_BREG 7:0, N_CTX 15:8, BIGINT_LIMBS 31:16, log2(BUF_BYTES) 39:32. -/
def paramWord : Word :=
  BitVec.ofNat 64 (Config.nBreg + Config.nCtx * 2 ^ 8 + Config.bigintLimbs * 2 ^ 16
    + Config.bufBytes.log2 * 2 ^ 32)

/-- The interrupt output `irq = CTRL.IRQ_EN AND STATUS.DONE` (R48, R520). -/
def State.irq (s : State) : Bool := s.irqEn && s.done

end Sys2Proof.Machine
end

