-- ==== Sys2Proof/Machine/Bus.lean ====
section
/-! DEFINITION. The host port: the register block (10_state.md section 3), the buffer window, access
legality and the launch of a command (20_memory.md sections 3 and 4). -/

namespace Sys2Proof.Machine

/-! ## Launch -/

/-- An accepted CMD write (R45): CMD_LAST, `Busy` with the arguments latched at that instant, DONE and
ERRCODE cleared. -/
def State.launch (s : State) (w : Word) : State :=
  { s with cmdLast := w, seq := .busy w s.args, done := false, errcode := 0 }

/-- A write of all 64 bits of CMD (R45): launched when `Idle`, dropped when `Busy`. -/
def State.writeCmd (s : State) (w : Word) : State :=
  match s.seq with
  | .idle => s.launch w
  | .busy _ _ => { s with dropped := true }

/-! ## Registers -/

/-- A write to CTRL (R43): IRQ_EN from bit 0, unless bit 1 asks for the soft reset (R552). -/
def State.writeCtrl (s : State) (v : Word) : State :=
  if v.getLsbD 1 then s.softReset else { s with irqEn := v.getLsbD 0 }

/-- A write to STATUS (R44): a 1 in bit 1 clears DONE, a 1 in bit 2 clears DROPPED, and no other bit
responds. -/
def State.writeStatus (s : State) (v : Word) : State :=
  let t := if v.getLsbD 1 then s.clearDone else s
  if v.getLsbD 2 then { t with dropped := false } else t

/-- A read of the register block (R40 to R47); a reserved offset reads 0. Reads have no side effect
(R114). -/
def State.readRegister (s : State) : (offset : Nat) → Word
  | 0x000 => idWord
  | 0x008 => paramWord
  | 0x010 => s.ctrlWord
  | 0x018 => s.statusWord
  | 0x020 => s.cmdLast
  | 0x028 => s.args.arg0
  | 0x030 => s.args.arg1
  | 0x038 => s.args.arg2
  | 0x040 => s.args.arg3
  | 0x048 => s.args.arg4
  | 0x050 => s.res0
  | 0x058 => s.res1
  | _ => 0

/-- A write to the register block (R40 to R47); ID, PARAM, RES0, RES1 and the reserved offsets ignore
it. -/
def State.writeRegister (s : State) (offset : Nat) (v : Word) : State :=
  match offset with
  | 0x010 => s.writeCtrl v
  | 0x018 => s.writeStatus v
  | 0x020 => s.writeCmd v
  | 0x028 => { s with args := { s.args with arg0 := v } }
  | 0x030 => { s with args := { s.args with arg1 := v } }
  | 0x038 => { s with args := { s.args with arg2 := v } }
  | 0x040 => { s with args := { s.args with arg3 := v } }
  | 0x048 => { s with args := { s.args with arg4 := v } }
  | _ => s

/-! ## Accesses -/

/-- What a block offset selects (R40). -/
inductive Region where
  /-- 0x00000 to 0x0FFFF: the registers and the reserved offsets after them. -/
  | registers
  /-- The window byte of BUF at this buffer offset (R101). -/
  | window (a : Nat)
  /-- From the window's end to 0x1FFFF: reserved (empty on this hardware, where the window fills it). -/
  | reserved
  /-- At or above 0x20000: not decoded by the core (log 7). -/
  | outside
deriving DecidableEq, Repr

/-- The region of a block offset (R40). -/
def regionOf (offset : Nat) : Region :=
  if offset < 0x10000 then .registers
  else if offset < 0x10000 + Config.bufBytes then .window (offset - 0x10000)
  else if offset < 0x20000 then .reserved
  else .outside

/-- R110: only a 64-bit access at an 8-byte-aligned offset is legal in the register block. -/
def registerLegal (offset width : Nat) : Bool := width == 8 && offset % 8 == 0

/-- R111: the window takes widths of 1, 2, 4 and 8 bytes at multiples of the width. -/
def windowLegal (offset width : Nat) : Bool :=
  (width == 1 || width == 2 || width == 4 || width == 8) && offset % width == 0

/-- The port's answer, and nothing else, changes. -/
def State.answer (s : State) (r : Resp) : State := { s with resp := r }

/-- A bus error (R505): no core state changes; the error response is recorded (log 6). -/
def State.busError (s : State) : Host.Outcome State Fault Refusal := .next (s.answer .error)

/-- A window read (R107, R111, R113), idle and legal: little-endian; an unwritten byte is the host's
fault (R555). -/
def State.readWindow (s : State) (a width : Nat) : Host.Outcome State Fault Refusal :=
  match memRead .host s.buf a width with
  | .ok bytes => .next (s.answer (.data (natRes (leValue bytes))))
  | .error f => .fault f

/-- A host read (R40, R110, R111, R113). -/
def State.hostRead (s : State) (offset width : Nat) : Host.Outcome State Fault Refusal :=
  match regionOf offset with
  | .registers =>
    if registerLegal offset width then .next (s.answer (.data (s.readRegister offset)))
    else s.busError
  | .window a => if !s.busy && windowLegal offset width then s.readWindow a width else s.busError
  | .reserved => .next (s.answer (.data 0))
  | .outside => .next (s.answer .notDecoded)

/-- A host write (R40, R107, R110, R111, R113): the window stores `toLE(v mod 256^n, n)`. -/
def State.hostWrite (s : State) (offset width : Nat) (v : Word) : Host.Outcome State Fault Refusal :=
  match regionOf offset with
  | .registers =>
    if registerLegal offset width then .next ((s.writeRegister offset v).answer .ack)
    else s.busError
  | .window a =>
    if !s.busy && windowLegal offset width then
      .next ((s.write a (toLE v.toNat width)).answer .ack)
    else s.busError
  | .reserved => .next (s.answer .ack)
  | .outside => .next (s.answer .notDecoded)

/-- One host access, indivisible (R112). -/
def State.hostAccess (s : State) : Access → Host.Outcome State Fault Refusal
  | .read offset width => s.hostRead offset width
  | .write offset width data => s.hostWrite offset width data

end Sys2Proof.Machine
end

