-- ==== Sys2Proof/Machine/Aes.lean ====
section
/-! DEFINITION. The AES round core (43_aes_core.md): the field, the ROMs, the key schedule, the round
transforms and their inverses, the block functions `AES_E` and `AES_D`, and the command AESBLK. -/

namespace Sys2Proof.Machine

/-! ## The field and the ROMs -/

/-- `xtime` of R400: multiplication by `x` modulo 0x11B. -/
def xtime (v : Byte) : Byte := (v <<< 1) ^^^ (if 0x80 ≤ v.toNat then 0x1B else 0)

/-- The product of `v` with the polynomial of the `n` low bits of `u`. -/
def gmulBits : Nat → Byte → Byte → Byte
  | 0, _, _ => 0
  | n + 1, u, v => (if u.getLsbD 0 then v else 0) ^^^ gmulBits n (u >>> 1) (xtime v)

/-- `gmul(u, v)`, the product in GF(2^8) (R400). -/
def gmul (u v : Byte) : Byte := gmulBits 8 u v

/-- A ROM row of sixteen bytes, written as the row reads in the table: entry `c` is byte `c` from the
left. -/
def romEntry (row c : Nat) : Byte := BitVec.ofNat 8 (row >>> (8 * (15 - c)))

/-- Entry `v` of a ROM given by its rows: the row is the high nibble, the column the low nibble (R401). -/
def romRead (rows : List Nat) (v : Byte) : Byte := romEntry (rows.getD (v.toNat / 16) 0) (v.toNat % 16)

/-- The S-box ROM, one row of R401 a line. -/
def sboxRows : List Nat :=
  [0x637c777bf26b6fc53001672bfed7ab76,
   0xca82c97dfa5947f0add4a2af9ca472c0,
   0xb7fd9326363ff7cc34a5e5f171d83115,
   0x04c723c31896059a071280e2eb27b275]
  ++ [0x09832c1a1b6e5aa0523bd6b329e32f84,
   0x53d100ed20fcb15b6acbbe394a4c58cf,
   0xd0efaafb434d338545f9027f503c9fa8,
   0x51a3408f929d38f5bcb6da2110fff3d2]
  ++ [0xcd0c13ec5f974417c4a77e3d645d1973,
   0x60814fdc222a908846eeb814de5e0bdb,
   0xe0323a0a4906245cc2d3ac629195e479,
   0xe7c8376d8dd54ea96c56f4ea657aae08]
  ++ [0xba78252e1ca6b4c6e8dd741f4bbd8b8a,
   0x703eb5664803f60e613557b986c11d9e,
   0xe1f8981169d98e949b1e87e9ce5528df,
   0x8ca1890dbfe6426841992d0fb054bb16]

/-- The inverse S-box ROM, one row of R402 a line. -/
def invSboxRows : List Nat :=
  [0x52096ad53036a538bf40a39e81f3d7fb,
   0x7ce339829b2fff87348e4344c4dee9cb,
   0x547b9432a6c2233dee4c950b42fac34e,
   0x082ea16628d924b2765ba2496d8bd125]
  ++ [0x72f8f66486689816d4a45ccc5d65b692,
   0x6c704850fdedb9da5e154657a78d9d84,
   0x90d8ab008cbcd30af7e45805b8b34506,
   0xd02c1e8fca3f0f02c1afbd0301138a6b]
  ++ [0x3a9111414f67dcea97f2cfcef0b4e673,
   0x96ac7422e7ad3585e2f937e81c75df6e,
   0x47f11a711d29c5896fb7620eaa18be1b,
   0xfc563e4bc6d279209adbc0fe78cd5af4]
  ++ [0x1fdda8338807c731b11210592780ec5f,
   0x60517fa919b54a0d2de57a9f93c99cef,
   0xa0e03b4dae2af5b0c8ebbb3c83539961,
   0x172b047eba77d626e169146355210c7d]

/-- `SBOX[v]` (R401). -/
def sbox (v : Byte) : Byte := romRead sboxRows v

/-- `INVSBOX[v]` (R402). -/
def invSbox (v : Byte) : Byte := romRead invSboxRows v

/-- `RCON[i]` for `i = 1..10` (R403). -/
def rcon (i : Nat) : Byte :=
  [0x00, 0x01, 0x02, 0x04, 0x08, 0x10, 0x20, 0x40, 0x80, 0x1b, 0x36].getD i 0

/-! ## Columns and blocks -/

/-- Byte-wise XOR of two columns (R16). -/
def Column.xor (a b : Column) : Column := ⟨a.b0 ^^^ b.b0, a.b1 ^^^ b.b1, a.b2 ^^^ b.b2, a.b3 ^^^ b.b3⟩

/-- A function on every byte of a column. -/
def Column.map (f : Byte → Byte) (a : Column) : Column := ⟨f a.b0, f a.b1, f a.b2, f a.b3⟩

/-- Byte-wise XOR of two blocks (R16, R454). -/
def Block.xor (a b : Block) : Block := ⟨a.c0.xor b.c0, a.c1.xor b.c1, a.c2.xor b.c2, a.c3.xor b.c3⟩

/-- A function on every column of a block. -/
def Block.map (f : Column → Column) (s : Block) : Block := ⟨f s.c0, f s.c1, f s.c2, f s.c3⟩

/-- The column at the front of a byte string, in buffer order. -/
def Column.ofBytes (s : List Byte) : Column := ⟨s.getD 0 0, s.getD 1 0, s.getD 2 0, s.getD 3 0⟩

/-- The bytes of a column in buffer order. -/
def Column.toBytes (a : Column) : List Byte := [a.b0, a.b1, a.b2, a.b3]

/-- The block at the front of a byte string: byte `r + 4c` is row `r` of column `c` (R404). -/
def Block.ofBytes (s : List Byte) : Block :=
  ⟨.ofBytes s, .ofBytes (s.drop 4), .ofBytes (s.drop 8), .ofBytes (s.drop 12)⟩

/-- The sixteen bytes of a block in buffer order (R404). -/
def Block.toBytes (s : Block) : List Byte :=
  s.c0.toBytes ++ s.c1.toBytes ++ s.c2.toBytes ++ s.c3.toBytes

/-! ## The key schedule -/

/-- `RotWord([a,b,c,d]) = [b,c,d,a]` (R406). -/
def rotWord (w : Column) : Column := ⟨w.b1, w.b2, w.b3, w.b0⟩

/-- `SubWord`: SBOX on each byte (R406). -/
def subWord (w : Column) : Column := w.map sbox

/-- `W[i]` from the words before it, the newest first (R406). -/
def nextKeyWord (nk i : Nat) (newestFirst : List Column) : Column :=
  let t := newestFirst.getD 0 .zero
  let t' :=
    if i % nk = 0 then (subWord (rotWord t)).xor ⟨rcon (i / nk), 0, 0, 0⟩
    else if nk > 6 ∧ i % nk = 4 then subWord t
    else t
  (newestFirst.getD (nk - 1) .zero).xor t'

/-- `n` more words from word `i` on; the result is `W` from word 0 (R406). -/
def expandKeyWords (nk : Nat) : (n i : Nat) → List Column → List Column
  | 0, _, ws => ws.reverse
  | n + 1, i, ws => expandKeyWords nk n (i + 1) (nextKeyWord nk i ws :: ws)

/-- The first words of the schedule, newest first: `W[i] = key[4i .. 4i+4)` for `i < Nk` (R406). -/
def initialKeyWords (key : List Byte) (nk : Nat) : List Column :=
  ((List.range nk).map fun i => Column.ofBytes (key.drop (4 * i))).reverse

/-- `Nk = keylen / 4` (R405). -/
def keyWordCount (key : List Byte) : Nat := key.length / 4

/-- `Nr = Nk + 6` (R405). -/
def roundCountOf (key : List Byte) : Nat := keyWordCount key + 6

/-- `KeyExpansion(key)`: the words `W[0 .. 4*(Nr+1))` (R406). -/
def keyExpansion (key : List Byte) : List Column :=
  let nk := keyWordCount key
  expandKeyWords nk (4 * (roundCountOf key + 1) - nk) nk (initialKeyWords key nk)

/-- Round key `rk`: the words `W[4rk .. 4rk+4)` (R406). -/
def roundKey (w : List Column) (rk : Nat) : Block :=
  ⟨w.getD (4 * rk) .zero, w.getD (4 * rk + 1) .zero, w.getD (4 * rk + 2) .zero,
   w.getD (4 * rk + 3) .zero⟩

/-! ## The round transforms -/

/-- SubBytes (R407). -/
def subBytes (s : Block) : Block := s.map (Column.map sbox)

/-- InvSubBytes (R407). -/
def invSubBytes (s : Block) : Block := s.map (Column.map invSbox)

/-- ShiftRows: `s'[r][c] = s[r][(c + r) mod 4]` (R408). -/
def shiftRows (s : Block) : Block :=
  ⟨⟨s.c0.b0, s.c1.b1, s.c2.b2, s.c3.b3⟩, ⟨s.c1.b0, s.c2.b1, s.c3.b2, s.c0.b3⟩,
   ⟨s.c2.b0, s.c3.b1, s.c0.b2, s.c1.b3⟩, ⟨s.c3.b0, s.c0.b1, s.c1.b2, s.c2.b3⟩⟩

/-- InvShiftRows: `s'[r][c] = s[r][(c - r) mod 4]` (R408). -/
def invShiftRows (s : Block) : Block :=
  ⟨⟨s.c0.b0, s.c3.b1, s.c2.b2, s.c1.b3⟩, ⟨s.c1.b0, s.c0.b1, s.c3.b2, s.c2.b3⟩,
   ⟨s.c2.b0, s.c1.b1, s.c0.b2, s.c3.b3⟩, ⟨s.c3.b0, s.c2.b1, s.c1.b2, s.c0.b3⟩⟩

/-- One entry of a matrix product: the row `[m0 m1 m2 m3]` with a column (R409). -/
def mixRow (m0 m1 m2 m3 : Byte) (a : Column) : Byte :=
  gmul m0 a.b0 ^^^ gmul m1 a.b1 ^^^ gmul m2 a.b2 ^^^ gmul m3 a.b3

/-- MixColumns on one column (R409). -/
def mixColumn (a : Column) : Column :=
  ⟨mixRow 2 3 1 1 a, mixRow 1 2 3 1 a, mixRow 1 1 2 3 a, mixRow 3 1 1 2 a⟩

/-- InvMixColumns on one column (R409). -/
def invMixColumn (a : Column) : Column :=
  ⟨mixRow 0x0e 0x0b 0x0d 0x09 a, mixRow 0x09 0x0e 0x0b 0x0d a,
   mixRow 0x0d 0x09 0x0e 0x0b a, mixRow 0x0b 0x0d 0x09 0x0e a⟩

/-- MixColumns (R409). -/
def mixColumns (s : Block) : Block := s.map mixColumn

/-- InvMixColumns (R409). -/
def invMixColumns (s : Block) : Block := s.map invMixColumn

/-- AddRoundKey: byte `r` of word `W[4rk + c]` into row `r` of column `c` (R410). -/
def addRoundKey (w : List Column) (rk : Nat) (s : Block) : Block := s.xor (roundKey w rk)

/-- A middle round of encryption (R411). -/
def encRound (w : List Column) (s : Block) (rk : Nat) : Block :=
  addRoundKey w rk (mixColumns (shiftRows (subBytes s)))

/-- A middle round of decryption (R412). -/
def decRound (w : List Column) (s : Block) (rk : Nat) : Block :=
  invMixColumns (addRoundKey w rk (invSubBytes (invShiftRows s)))

/-- `AES_E(key, in)` (R411). -/
def aesE (key : List Byte) (s : Block) : Block :=
  let w := keyExpansion key
  let nr := roundCountOf key
  addRoundKey w nr (shiftRows (subBytes
    ((List.range' 1 (nr - 1)).foldl (encRound w) (addRoundKey w 0 s))))

/-- `AES_D(key, in)`, the inverse cipher (R412). -/
def aesD (key : List Byte) (s : Block) : Block :=
  let w := keyExpansion key
  let nr := roundCountOf key
  addRoundKey w 0 (invSubBytes (invShiftRows
    ((List.range' 1 (nr - 1)).reverse.foldl (decRound w) (addRoundKey w nr s))))

/-! ## AESBLK -/

/-- What AESBLK checks and reads: the key length, the three ranges, then the key and the block (R420). -/
def State.blockOperands (s : State) (keylen : Nat) : Except Stop (List Byte × List Byte) := do
  let a := s.latched
  checkKeyLen keylen
  checkRange a.keyAt keylen
  checkRange a.src 16
  checkRange a.dst 16
  let key ← s.read a.keyAt keylen
  let input ← s.read a.src 16
  .ok (key, input)

/-- AESBLK keylen (R420). -/
def execAesblk (dec : Bool) (keylen : BitVec 32) (s : State) : Host.Outcome State Fault Refusal :=
  s.finish (s.blockOperands (unsignedImm keylen)) fun (key, input) =>
    let b := Block.ofBytes input
    let out := if dec then aesD key b else aesE key b
    ((s.write s.latched.dst out.toBytes).setRes 0 0).succeed

end Sys2Proof.Machine
end

