-- ==== Sys2Proof/Machine/AesModes.lean ====
section
/-! DEFINITION. The chaining modes, padding and the stream commands (44_aes_modes.md). On any error no
buffer byte, context field or result register changes (R18). -/

namespace Sys2Proof.Machine

/-! ## Padding -/

/-- `padLen(L) = 16 - (L mod 16)` (R452). -/
def padLen (n : Nat) : Nat := 16 - n % 16

/-- `pad16(L) = L + padLen(L)` (R452). -/
def pad16 (n : Nat) : Nat := n + padLen n

/-- `pad(p)`: the pad byte is the pad length and the pad is never empty (R452). -/
def pad (p : List Byte) : List Byte :=
  p ++ List.replicate (padLen p.length) (BitVec.ofNat 8 (padLen p.length))

/-- The pad length of a decrypted string, its last byte, where that lies in `[1, 16]` (R453). The other
pad bytes are not checked. -/
def padByte (q : List Byte) : Option Nat :=
  let n := (q.getLastD 0).toNat
  if 1 ≤ n ∧ n ≤ 16 then some n else none

/-! ## Chaining -/

/-- `ctrInc(c) = toBE((BE(c) + 1) mod 2^128, 16)` (R456). -/
def ctrInc (c : Block) : Block := Block.ofBytes (toBE ((beValue c.toBytes + 1) % 2 ^ 128) 16)

/-- One block of EncBlocks (R454): the ciphertext block and the next feedback. For CFB the feedback is
the ciphertext (R455, C4). -/
def encStep (mode : Mode) (key : List Byte) (fb p : Block) : Block × Block :=
  match mode with
  | .ecb => (aesE key p, fb)
  | .cbc => (aesE key (p.xor fb), aesE key (p.xor fb))
  | .cfb => (p.xor (aesE key fb), p.xor (aesE key fb))
  | .ofb => (p.xor (aesE key fb), aesE key fb)
  | .ctr => (p.xor (aesE key fb), ctrInc fb)

/-- One block of DecBlocks (R454): the plaintext block and the next feedback. -/
def decStep (mode : Mode) (key : List Byte) (fb c : Block) : Block × Block :=
  match mode with
  | .ecb => (aesD key c, fb)
  | .cbc => ((aesD key c).xor fb, c)
  | .cfb => (c.xor (aesE key fb), c)
  | .ofb => (c.xor (aesE key fb), aesE key fb)
  | .ctr => (c.xor (aesE key fb), ctrInc fb)

/-- A block step along a list of blocks: the outputs and the last feedback (R454). -/
def chain (step : Block → Block → Block × Block) : Block → List Block → List Block × Block
  | fb, [] => ([], fb)
  | fb, p :: ps =>
    ((step fb p).1 :: (chain step (step fb p).2 ps).1, (chain step (step fb p).2 ps).2)

/-- `EncBlocks(mode, key, fb, P)` (R454). -/
def encBlocks (mode : Mode) (key : List Byte) (fb : Block) (ps : List Block) : List Block × Block :=
  chain (encStep mode key) fb ps

/-- `DecBlocks(mode, key, fb, C)` (R454). -/
def decBlocks (mode : Mode) (key : List Byte) (fb : Block) (cs : List Block) : List Block × Block :=
  chain (decStep mode key) fb cs

/-- The first `m` blocks of a byte string (R454). -/
def blocksOf : (m : Nat) → List Byte → List Block
  | 0, _ => []
  | m + 1, s => Block.ofBytes s :: blocksOf m (s.drop 16)

/-- The bytes of a list of blocks, in order (R454). -/
def bytesOfBlocks (bs : List Block) : List Byte := bs.flatMap Block.toBytes

/-- The ciphertext of a padded chunk and the new feedback (R454, R458). -/
def encryptChunk (mode : Mode) (key : List Byte) (fb : Block) (p : List Byte) : List Byte × Block :=
  let (cs, fb') := encBlocks mode key fb (blocksOf (pad16 p.length / 16) (pad p))
  (bytesOfBlocks cs, fb')

/-- The still padded plaintext of a ciphertext of whole blocks, and the new feedback (R454, R458). -/
def decryptChunk (mode : Mode) (key : List Byte) (fb : Block) (c : List Byte) : List Byte × Block :=
  let (ps, fb') := decBlocks mode key fb (blocksOf (c.length / 16) c)
  (bytesOfBlocks ps, fb')

/-! ## The stream commands -/

/-- The IV bytes a Start's chunk carries: none for ECB, sixteen otherwise (R457, R460, R462). -/
def ivLen (mode : Mode) : Nat := if mode = .ecb then 0 else 16

/-- A key of up to 32 bytes in its context field: zero bytes follow it (R50, R460). -/
def keyField (key : List Byte) : Vector Byte 32 := Vector.ofFn fun i => key.getD i 0

/-- `c.key[0..c.keylen)` (R461, R463). -/
def Ctx.keyBytes (c : Ctx) : List Byte := c.key.toList.take c.keylen

/-- The context a Start leaves (R51, R460, R462). -/
def startedCtx (dir : Dir) (mode : Mode) (key : List Byte) (fb : Block) : Ctx where
  active := true
  dir := dir
  mode := mode
  keylen := key.length
  key := keyField key
  fb := fb

/-- What AESENCS checks and reads (R460): key length, ranges, EmptyBuffer, BufferTooSmall, then the key
and the plaintext. -/
def State.encStartOperands (s : State) (mode : Mode) (keylen : Nat) :
    Except Stop (List Byte × List Byte) := do
  let a := s.latched
  checkKeyLen keylen
  checkRange a.src a.len
  checkRange a.dst a.cap
  checkRange a.keyAt keylen
  require (a.len != 0) .emptyBuffer
  require (decide (pad16 a.len + ivLen mode ≤ a.cap)) .bufferTooSmall
  let key ← s.read a.keyAt keylen
  let p ← s.read a.src a.len
  .ok (key, p)

/-- What a Start's encryption writes, from the first feedback `fb0` and the bytes `iv` that follow the
ciphertext (R457, R460). -/
def State.startEnc (t : State) (k : CtxIx) (mode : Mode) (key p : List Byte) (fb0 : Block)
    (iv : List Byte) : State :=
  let (c, fb1) := encryptChunk mode key fb0 p
  ((t.write t.latched.dst (c ++ iv)).setCtx k (startedCtx .enc mode key fb1)).setRes
    (natRes (pad16 p.length + iv.length)) (natRes (padLen p.length))

/-- The encryption of an AESENCS whose operands are read (R457, R460): ECB draws nothing, any other mode
draws its IV as consultation `i`. -/
def State.encStart (t : State) (src : Source) (i : Nat) (k : CtxIx) (mode : Mode)
    (key p : List Byte) : Except ErrCode State :=
  if mode = .ecb then .ok (t.startEnc k mode key p .zero [])
  else
    match draw src i with
    | .error e => .error e
    | .ok r => .ok (t.startEnc k mode key p (Block.ofBytes (bytesOf r 16)) (bytesOf r 16))

/-- AESENCS ctx, mode, KL (R460). -/
def execAesencs (k : CtxIx) (mode : Mode) (keylen : BitVec 32) (s : State) :
    Host.Outcome State Fault Refusal :=
  s.finish (s.encStartOperands mode (unsignedImm keylen)) fun (key, p) =>
    let t := s.spend (if mode = .ecb then 0 else 1)
    t.complete (t.encStart Config.source s.draws k mode key p)

/-- `if not c.active or c.dir != dir: raise StreamNotStarted` (R461, R463). -/
def checkStream (c : Ctx) (dir : Dir) : Except Stop Unit :=
  require (c.active && c.dir == dir) .streamNotStarted

/-- What AESENCC checks and reads (R461). -/
def State.encContOperands (s : State) (k : CtxIx) : Except Stop (List Byte) := do
  let a := s.latched
  checkStream (s.ctx k) .enc
  checkRange a.src a.len
  checkRange a.dst a.cap
  require (a.len != 0) .emptyBuffer
  require (decide (pad16 a.len ≤ a.cap)) .bufferTooSmall
  s.read a.src a.len

/-- AESENCC ctx (R461). -/
def execAesencc (k : CtxIx) (s : State) : Host.Outcome State Fault Refusal :=
  s.finish (s.encContOperands k) fun p =>
    let c := s.ctx k
    let (out, fb1) := encryptChunk c.mode c.keyBytes c.fb p
    (((s.write s.latched.dst out).setCtx k { c with fb := fb1 }).setRes
      (natRes (pad16 p.length)) (natRes (padLen p.length))).succeed

/-- What AESDECS checks and reads (R462), up to the bad-length check. -/
def State.decStartOperands (s : State) (mode : Mode) (keylen : Nat) :
    Except Stop (List Byte × List Byte) := do
  let a := s.latched
  checkKeyLen keylen
  checkRange a.src a.len
  checkRange a.dst a.cap
  checkRange a.keyAt keylen
  require (a.len != 0) .emptyBuffer
  require (a.len % 16 == 0 && decide (16 + ivLen mode ≤ a.len)) .encryptedDataInvalid
  let key ← s.read a.keyAt keylen
  let x ← s.read a.src a.len
  .ok (key, x)

/-- The feedback a decrypt Start begins from: the last 16 bytes of its input, or zero for ECB (R457,
R462). -/
def startFeedback (mode : Mode) (x : List Byte) : Block :=
  if mode = .ecb then .zero else Block.ofBytes (x.drop (x.length - 16))

/-- Unpadding and delivery of a decrypted string `q` (R453, R462, R463): a bad pad byte, then a too small
capacity, then the write of the unpadded bytes with RES0 their number and RES1 the pad length. `c` is the
context to install. -/
def State.deliver (s : State) (k : CtxIx) (c : Ctx) (q : List Byte) : Except ErrCode State :=
  match padByte q with
  | none => .error .encryptedDataInvalid
  | some n =>
    if q.length - n ≤ s.latched.cap then
      .ok (((s.write s.latched.dst (q.take (q.length - n))).setCtx k c).setRes
        (natRes (q.length - n)) (natRes n))
    else .error .bufferTooSmall

/-- AESDECS ctx, mode, KL (R462). -/
def execAesdecs (k : CtxIx) (mode : Mode) (keylen : BitVec 32) (s : State) :
    Host.Outcome State Fault Refusal :=
  s.finish (s.decStartOperands mode (unsignedImm keylen)) fun (key, x) =>
    let (q, fb1) :=
      decryptChunk mode key (startFeedback mode x) (x.take (x.length - ivLen mode))
    s.complete (s.deliver k (startedCtx .dec mode key fb1) q)

/-- What AESDECC checks and reads (R463), up to the bad-length check. -/
def State.decContOperands (s : State) (k : CtxIx) : Except Stop (List Byte) := do
  let a := s.latched
  checkStream (s.ctx k) .dec
  checkRange a.src a.len
  checkRange a.dst a.cap
  require (a.len != 0) .emptyBuffer
  require (a.len % 16 == 0) .encryptedDataInvalid
  s.read a.src a.len

/-- AESDECC ctx (R463). -/
def execAesdecc (k : CtxIx) (s : State) : Host.Outcome State Fault Refusal :=
  s.finish (s.decContOperands k) fun x =>
    let c := s.ctx k
    let (q, fb1) := decryptChunk c.mode c.keyBytes c.fb x
    s.complete (s.deliver k { c with fb := fb1 } q)

/-- AESCLR ctx (R464). -/
def execAesclr (k : CtxIx) (s : State) : Host.Outcome State Fault Refusal :=
  .next (s.complete (.ok ((s.setCtx k .reset).setRes 0 0)))

/-- RES0 of AESLEN (R465), in unbounded integers. -/
def aesLength (mode : Mode) (dir : Dir) (first : Bool) (n : Nat) : Nat :=
  let iv := if first then ivLen mode else 0
  match dir with
  | .enc => pad16 n + iv
  | .dec => n - iv

/-- AESLEN mode, dir, first (R465); the chunk length is ARG0. -/
def execAeslen (mode : Mode) (dir : Dir) (first : Bool) (s : State) :
    Host.Outcome State Fault Refusal :=
  .next (s.complete (.ok (s.setRes (natRes (aesLength mode dir first s.latched.arg0.toNat)) 0)))

end Sys2Proof.Machine
end

