-- ==== Sys2Proof/Machine/Numbers.lean ====
section
/-! DEFINITION. The number theory of 41_bigint_modular.md and 42_random_prime.md on plain integers, as the
pseudocode of the rules gives it: `sgn`, shifts, square-and-multiply, extended Euclid, Euler's criterion,
Tonelli–Shanks and Miller–Rabin. Every loop is a structural recursion whose bound is the rule's own or
suffices for it (log 13). -/

namespace Sys2Proof.Machine

/-- `sgn(a)`: -1 for `a < 0`, +1 otherwise (R15). -/
def sgn (a : Int) : Int := if a < 0 then -1 else 1

/-- `sgn(a) * (|a| * 2^k)` (R211). A zero stays zero whatever `k` is. -/
def shiftLeft (a : Int) (k : Nat) : Int := if a = 0 then 0 else sgn a * ((a.natAbs * 2 ^ k : Nat) : Int)

/-- `sgn(a) * floor(|a| / 2^k)` (R212). From `k >= bitlen(|a|)` on it is 0. -/
def shiftRight (a : Int) (k : Nat) : Int :=
  if bitLen a.natAbs ≤ k then 0 else sgn a * ((a.natAbs / 2 ^ k : Nat) : Int)

/-- The loop of R302 over bits `i-1` down to 0 of `e`. -/
def modExpLoop (x m : Int) (e : Nat) : Nat → Int → Int
  | 0, r => r
  | i + 1, r =>
    let r2 := (r * r).fmod m
    modExpLoop x m e i (if e.testBit i then (r2 * x).fmod m else r2)

/-- `base^e mod m`, the exact residue, by the left-to-right square-and-multiply of R302. It is also what
`x^e mod m` means in the other rules of 41_bigint_modular.md and in R354. -/
def modExp (base : Int) (e : Nat) (m : Int) : Int :=
  modExpLoop (base.fmod m) m e (bitLen e) (Int.fmod 1 m)

/-- The loop of R304: `(r0, s0, t0)` when `r1 = 0`. The bound `fuel >= |r1|` suffices, since `r1`
strictly decreases. -/
def extLoop : Nat → Int → Int → Int → Int → Int → Int → Int × Int × Int
  | 0, r0, _, s0, _, t0, _ => (r0, s0, t0)
  | fuel + 1, r0, r1, s0, s1, t0, t1 =>
    if r1 = 0 then (r0, s0, t0)
    else
      let q := r0.fdiv r1
      extLoop fuel r1 (r0 - q * r1) s1 (s0 - q * s1) t1 (t0 - q * t1)

/-- `(g, x, y)` of the extended Euclid algorithm of R304, with its exact coefficients. -/
def extGcd (a b : Int) : Int × Int × Int :=
  let (g, s, t) := extLoop b.natAbs a.natAbs b.natAbs 1 0 0 1
  (g, sgn a * s, sgn b * t)

/-- Whether `p < 3` or `p` is even: outside the domain of QRTEST and SQRTMOD (R306, R307). -/
def badPrime (p : Int) : Bool := p < 3 || p.fmod 2 == 0

/-- `x^((p-1)/2) mod p` (R306, R307). -/
def eulerPower (x p : Int) : Int := modExp x ((p - 1) / 2).toNat p

/-- The verdict of QRTEST after the domain check (R306): 0, 1 or -1, or FunctionFailed. -/
def residueVerdict (a p : Int) : Except ErrCode Int :=
  let x := a.fmod p
  if x = 0 then .ok 0
  else
    let e := eulerPower x p
    if e = 1 then .ok 1 else if e = p - 1 then .ok (-1) else .error .functionFailed

/-- `(Q, S)` with `n = Q * 2^S` and `Q` odd, for `0 < n <= fuel` (R307, R354). -/
def splitTwo : (fuel n : Nat) → Nat × Nat
  | 0, n => (n, 0)
  | fuel + 1, n =>
    if n % 2 = 0 then ((splitTwo fuel (n / 2)).1, (splitTwo fuel (n / 2)).2 + 1) else (n, 0)

/-- The non-residue search of R307 from `z` on: the least non-residue, or FunctionFailed. -/
def findNonResidue (p : Int) : (fuel : Nat) → Int → Except ErrCode Int
  | 0, _ => .error .functionFailed
  | fuel + 1, z =>
    if z > (Config.sqrtZMax : Int) ∨ z ≥ p then .error .functionFailed
    else
      let ez := eulerPower z p
      if ez = p - 1 then .ok z
      else if ez ≠ 1 then .error .functionFailed
      else findNonResidue p fuel (z + 1)

/-- The least `i` with `1 <= i <= M-1` and `t^(2^i) mod p = 1` (R307). -/
def leastOrder (p t : Int) (M : Nat) : Option Nat :=
  (List.range' 1 (M - 1)).find? fun i => modExp t (2 ^ i) p == 1

/-- The `while t != 1` loop of R307; `fuel >= M` suffices, since `M` strictly decreases. -/
def tonelliLoop (p : Int) : (fuel M : Nat) → (c t R : Int) → Except ErrCode Int
  | 0, _, _, t, R => if t = 1 then .ok R else .error .functionFailed
  | fuel + 1, M, c, t, R =>
    if t = 1 then .ok R
    else
      match leastOrder p t M with
      | none => .error .functionFailed
      | some i =>
        let bb := modExp c (2 ^ (M - i - 1)) p
        let c' := (bb * bb).fmod p
        tonelliLoop p fuel i c' ((t * c').fmod p) ((R * bb).fmod p)

/-- The Tonelli–Shanks branch of R307 for a residue `x`. -/
def tonelliShanks (x p : Int) : Except ErrCode Int :=
  let (Q, S) := splitTwo (p - 1).toNat (p - 1).toNat
  match findNonResidue p Config.sqrtZMax 2 with
  | .error e => .error e
  | .ok z => tonelliLoop p S S (modExp z Q p) (modExp x Q p) (modExp x ((Q + 1) / 2) p)

/-- The root of a residue `x` and the path taken: 1 the fast path, 2 Tonelli–Shanks (R307). -/
def rootOfResidue (x p : Int) : Except ErrCode (Int × Nat) :=
  if p.fmod 4 = 3 then .ok (modExp x ((p + 1) / 4).toNat p, 1)
  else
    match tonelliShanks x p with
    | .error e => .error e
    | .ok r => .ok (r, 2)

/-- `(r, found, path)` of SQRTMOD after the domain check (R307), with its final check. -/
def sqrtMod (a p : Int) : Except ErrCode (Int × Nat × Nat) :=
  let x := a.fmod p
  if x = 0 then .ok (0, 1, 0)
  else
    let e := eulerPower x p
    if e = p - 1 then .ok (0, 0, 0)
    else if e ≠ 1 then .error .functionFailed
    else
      match rootOfResidue x p with
      | .error er => .error er
      | .ok (r, path) => if (r * r).fmod p ≠ x then .error .functionFailed else .ok (r, 1, path)

/-- Whether no `d, d+2, …` with `d*d <= q` divides `q`; `fuel >= q` suffices. -/
def noOddFactor (q : Nat) : (fuel d : Nat) → Bool
  | 0, _ => true
  | fuel + 1, d => if q < d * d then true else q % d != 0 && noOddFactor q fuel (d + 2)

/-- TRIAL_PRIMES: every odd prime `q` with `3 <= q < TRIAL_BOUND`, in ascending order (R11, R354). -/
def trialPrimes : List Nat :=
  (List.range Config.trialBound).filter fun q => 3 ≤ q && q % 2 == 1 && noOddFactor q q 3

/-- Trial division of R354: the verdict, or `none` where it does not decide. -/
def trialDivide (n : Int) : List Nat → Option Bool
  | [] => none
  | q :: qs =>
    if n = (q : Int) then some true
    else if n.fmod (q : Int) = 0 then some false
    else trialDivide n qs

/-- The verdict of R354 that is reached with no draw, or `none`. -/
def verdictWithoutDraw (n : Int) (td : Bool) : Option Bool :=
  if n < 2 then some false
  else if n = 2 ∨ n = 3 then some true
  else if n.fmod 2 = 0 then some false
  else if td then trialDivide n trialPrimes
  else none

/-- Whether `a` is a witness for `n`, with `n - 1 = d * 2^s` (R354). -/
def isWitness (n : Int) (d s : Nat) (a : Int) : Bool :=
  let x0 := modExp a d n
  x0 != 1 && x0 != n - 1 && (List.range' 1 (s - 1)).all fun i => modExp x0 (2 ^ i) n != n - 1

/-- The verdict over the draws: no draw is a witness (R354). -/
def verdictOver (n : Int) (as : List Int) : Bool :=
  let (d, s) := splitTwo (n - 1).toNat (n - 1).toNat
  !as.any (isWitness n d s)

/-- The verdict of R354 on `n` with `k` rounds, drawing from consultation `i` on, and how many
consultations it makes: all `k`, unless it is decided with no draw. -/
def millerRabin (src : Source) (i : Nat) (n : Int) (k : Nat) (td : Bool) :
    Except ErrCode Bool × Nat :=
  match verdictWithoutDraw n td with
  | some v => (.ok v, 0)
  | none =>
    (match drawMany src 2 (n - 2) k i with
     | .ok as => .ok (verdictOver n as)
     | .error e => .error e, k)

/-- `v OR 1` for `v >= 0` (R351, R355). -/
def orOne (v : Int) : Int := if v % 2 = 0 then v + 1 else v

/-- `2^(n-1) + DrawUniform(0, 2^(n-1) - 1)`: an exact bit length `n` (R351, R355). -/
def drawTopBit (src : Source) (i n : Nat) : Except ErrCode Int :=
  match drawUniform src i 0 (2 ^ (n - 1) - 1) with
  | .ok d => .ok (2 ^ (n - 1) + d)
  | .error e => .error e

/-- The candidate loop of R355: the accepted candidate with its 1-based index, and the number of
consultations up to and with those of this search. -/
def primeSearch (src : Source) (n k : Nat) :
    (left attempt i : Nat) → Except ErrCode (Int × Nat) × Nat
  | 0, _, i => (.error .functionFailed, i)
  | left + 1, attempt, i =>
    match drawTopBit src i n with
    | .error e => (.error e, i + 1)
    | .ok v =>
      match millerRabin src (i + 1) (orOne v) k true with
      | (.error e, used) => (.error e, i + 1 + used)
      | (.ok true, used) => (.ok (orOne v, attempt), i + 1 + used)
      | (.ok false, used) => primeSearch src n k left (attempt + 1) (i + 1 + used)

end Sys2Proof.Machine
end

