-- ==== Sys2Proof/Machine/BigInt.lean ====
section
/-! DEFINITION. The meanings of NOP and the BigInt moves and arithmetic (40_bigint_basic.md sections 2 and
3). Each computes every new value first and commits at the end (R18). -/

namespace Sys2Proof.Machine

/-- A command that writes one register and 0 to both results: `writeReg(rd, v)` (R200, R47). -/
def State.putReg (s : State) (rd : Reg) (v : Int) : Except ErrCode State := do
  let t ← s.writeReg rd v
  .ok (t.setRes 0 0)

/-- NOP (R201). -/
def execNop (s : State) : Host.Outcome State Fault Refusal :=
  .next (s.complete (.ok (s.setRes 0 0)))

/-- BSETI rd, simm32 (R202). -/
def execBseti (rd : Reg) (imm : BitVec 32) (s : State) : Host.Outcome State Fault Refusal :=
  .next (s.complete (s.putReg rd (signedImm imm)))

/-- BMOV rd, rs1 (R203). -/
def execBmov (rd rs1 : Reg) (s : State) : Host.Outcome State Fault Refusal :=
  .next (s.complete (s.putReg rd (s.reg rs1)))

/-- BNEG rd, rs1 (R204). -/
def execBneg (rd rs1 : Reg) (s : State) : Host.Outcome State Fault Refusal :=
  .next (s.complete (s.putReg rd (-s.reg rs1)))

/-- BADD rd, rs1, rs2 (R205). -/
def execBadd (rd rs1 rs2 : Reg) (s : State) : Host.Outcome State Fault Refusal :=
  .next (s.complete (s.putReg rd (s.reg rs1 + s.reg rs2)))

/-- BSUB rd, rs1, rs2 (R206). -/
def execBsub (rd rs1 rs2 : Reg) (s : State) : Host.Outcome State Fault Refusal :=
  .next (s.complete (s.putReg rd (s.reg rs1 - s.reg rs2)))

/-- BMUL rd, rs1, rs2 (R207). -/
def execBmul (rd rs1 rs2 : Reg) (s : State) : Host.Outcome State Fault Refusal :=
  .next (s.complete (s.putReg rd (s.reg rs1 * s.reg rs2)))

/-- BDIVREM rd, rd2, rs1, rs2 (R208): the quotient truncated toward zero to `rd`, the remainder with the
dividend's sign to `rd2` (R15). -/
def execBdivrem (rd rd2 rs1 rs2 : Reg) (s : State) : Host.Outcome State Fault Refusal :=
  .next (s.complete (do
    let a := s.reg rs1
    let d := s.reg rs2
    need (d != 0) .divisionByZero
    let t ← s.writeReg rd (a.tdiv d)
    let u ← t.writeReg rd2 (a.tmod d)
    .ok (u.setRes 0 0)))

/-- `if m = 0: raise DivisionByZero; if m < 0: raise DomainError` (R209, R301, R302, R305). -/
def checkModulus (m : Int) : Except ErrCode Unit := do
  need (m != 0) .divisionByZero
  need (!decide (m < 0)) .domainError

/-- BMOD rd, rs1, rs2 (R209): the residue in `[0, m-1]`. -/
def execBmod (rd rs1 rs2 : Reg) (s : State) : Host.Outcome State Fault Refusal :=
  .next (s.complete (do
    checkModulus (s.reg rs2)
    s.putReg rd ((s.reg rs1).fmod (s.reg rs2))))

/-- BCMP rs1, rs2 (R210). -/
def execBcmp (rs1 rs2 : Reg) (s : State) : Host.Outcome State Fault Refusal :=
  .next (s.complete (.ok (s.setRes (signedRes (compareRes (s.reg rs1) (s.reg rs2))) 0)))

/-- BSHL rd, rs1, k (R211). A non-zero operand with `k >= 64*BIGINT_LIMBS` always exceeds CAP. -/
def execBshl (rd rs1 : Reg) (k : BitVec 32) (s : State) : Host.Outcome State Fault Refusal :=
  .next (s.complete (do
    need (s.reg rs1 == 0 || decide (unsignedImm k < Config.capBits)) .capacityExceeded
    s.putReg rd (shiftLeft (s.reg rs1) (unsignedImm k))))

/-- BSHR rd, rs1, k (R212). -/
def execBshr (rd rs1 : Reg) (k : BitVec 32) (s : State) : Host.Outcome State Fault Refusal :=
  .next (s.complete (s.putReg rd (shiftRight (s.reg rs1) (unsignedImm k))))

/-- BBITLEN rs1 (R213): the bit length of the magnitude, and the sign. -/
def execBbitlen (rs1 : Reg) (s : State) : Host.Outcome State Fault Refusal :=
  .next (s.complete (.ok
    (s.setRes (natRes (bitLen (s.reg rs1).natAbs)) (boolRes (decide (s.reg rs1 < 0))))))

end Sys2Proof.Machine
end

