-- ==== Sys2Proof/Machine/Convert.lean ====
section
/-! DEFINITION. The meanings of the byte and decimal conversions, the loads and stores of the BigInt
cluster (40_bigint_basic.md section 5). -/

namespace Sys2Proof.Machine

/-- The integer of an imported byte string: magnitude by byte order, sign by flag (R230). -/
def importValue (le neg : Bool) (bytes : List Byte) : Int :=
  let mag : Int := if le then leValue bytes else beValue bytes
  if neg then -mag else mag

/-- BLOAD rd (R230). -/
def execBload (rd : Reg) (le neg : Bool) (s : State) : Host.Outcome State Fault Refusal :=
  s.finish s.input fun bytes => s.complete (s.putReg rd (importValue le neg bytes))

/-- The bytes BSTORE writes: exactly `c` bytes of the magnitude, zero-filled at the high-order end
(R231). -/
def exportBytes (le : Bool) (v : Int) (c : Nat) : List Byte :=
  if le then toLE v.natAbs c else toBE v.natAbs c

/-- What BSTORE checks (R231): the range, then the capacity. -/
def State.storeChecks (s : State) (needed : Nat) : Except Stop Unit := do
  let a := s.latched
  checkRange a.src a.len
  require (decide (needed ≤ a.len)) .bufferTooSmall

/-- BSTORE rs1 (R231). -/
def execBstore (rs1 : Reg) (le : Bool) (s : State) : Host.Outcome State Fault Refusal :=
  let v := s.reg rs1
  s.finish (s.storeChecks (byteLen v.natAbs)) fun _ =>
    ((s.write s.latched.src (exportBytes le v s.latched.len)).setRes
      (natRes (byteLen v.natAbs)) (boolRes (decide (v < 0)))).succeed

/-- BFROMDEC rd (R232). -/
def execBfromdec (rd : Reg) (s : State) : Host.Outcome State Fault Refusal :=
  s.finish s.input fun bytes => s.complete (
    match parseDecimal bytes with
    | none => .error .parseError
    | some v => s.putReg rd v)

/-- BTODEC rs1 (R233). -/
def execBtodec (rs1 : Reg) (s : State) : Host.Outcome State Fault Refusal :=
  let t := decimalString (s.reg rs1)
  s.finish (s.storeChecks t.length) fun _ =>
    ((s.write s.latched.src t).setRes (natRes t.length) 0).succeed

end Sys2Proof.Machine
end

