-- ==== Sys2Proof/Machine/Modular.lean ====
section
/-! DEFINITION. The meanings of the modular arithmetic unit (41_bigint_modular.md). Every result is the
exact residue, whatever the reduction method (R300). -/

namespace Sys2Proof.Machine

/-- BMODMUL rd, rs1, rs2, rs3 (R301). -/
def execBmodmul (rd rs1 rs2 rs3 : Reg) (s : State) : Host.Outcome State Fault Refusal :=
  .next (s.complete (do
    checkModulus (s.reg rs3)
    s.putReg rd ((s.reg rs1 * s.reg rs2).fmod (s.reg rs3))))

/-- BMODEXP rd, rs1, rs2, rs3 (R302). -/
def execBmodexp (rd rs1 rs2 rs3 : Reg) (s : State) : Host.Outcome State Fault Refusal :=
  .next (s.complete (do
    let e := s.reg rs2
    checkModulus (s.reg rs3)
    need (!decide (e < 0)) .domainError
    s.putReg rd (modExp (s.reg rs1) e.toNat (s.reg rs3))))

/-- BGCD rd, rs1, rs2 (R303). -/
def execBgcd (rd rs1 rs2 : Reg) (s : State) : Host.Outcome State Fault Refusal :=
  .next (s.complete (s.putReg rd (Nat.gcd (s.reg rs1).natAbs (s.reg rs2).natAbs : Nat)))

/-- BEXTGCD rd, rd2, rd3, rs1, rs2 (R304): `g` to `rd`, `x` to `rd2`, `y` to `rd3`. -/
def execBextgcd (rd rd2 rd3 rs1 rs2 : Reg) (s : State) : Host.Outcome State Fault Refusal :=
  .next (s.complete (do
    let (g, x, y) := extGcd (s.reg rs1) (s.reg rs2)
    let t ← s.writeReg rd g
    let u ← t.writeReg rd2 x
    let v ← u.writeReg rd3 y
    .ok (v.setRes 0 0)))

/-- BMODINV rd, rs1, rs2 (R305). -/
def execBmodinv (rd rs1 rs2 : Reg) (s : State) : Host.Outcome State Fault Refusal :=
  .next (s.complete (do
    let m := s.reg rs2
    checkModulus m
    let (g, x, _) := extGcd ((s.reg rs1).fmod m) m
    need (g == 1) .noInverse
    s.putReg rd (x.fmod m)))

/-- QRTEST rs1, rs2 (R306). -/
def execQrtest (rs1 rs2 : Reg) (s : State) : Host.Outcome State Fault Refusal :=
  .next (s.complete (do
    need (!badPrime (s.reg rs2)) .domainError
    let c ← residueVerdict (s.reg rs1) (s.reg rs2)
    .ok (s.setRes (signedRes c) 0)))

/-- SQRTMOD rd, rs1, rs2 (R307, R308). -/
def execSqrtmod (rd rs1 rs2 : Reg) (s : State) : Host.Outcome State Fault Refusal :=
  .next (s.complete (do
    need (!badPrime (s.reg rs2)) .domainError
    let (r, found, path) ← sqrtMod (s.reg rs1) (s.reg rs2)
    let t ← s.writeReg rd r
    .ok (t.setRes (natRes found) (natRes path))))

end Sys2Proof.Machine
end

