-- ==== Sys2Proof/Machine/Random.lean ====
section
/-! DEFINITION. The meanings of random generation, the Miller–Rabin tester and prime generation
(42_random_prime.md). Every result is stated for the draws taken (R350): consultation `s.draws` onward of
`Config.source`. The consultations made are spent whether the command succeeds or not (log 2). -/

namespace Sys2Proof.Machine

/-- The operand checks of RANDBITS (R351). -/
def checkRandbits (n : Nat) (odd : Bool) : Except ErrCode Unit := do
  need (!(n == 0 && odd)) .domainError
  need (decide (n ≤ Config.capBits)) .capacityExceeded

/-- The value of RANDBITS after its checks (R351): 0 for `n = 0` and 1 for `n = 1`, with no draw. -/
def randbitsValue (src : Source) (i n : Nat) (odd : Bool) : Except ErrCode Int :=
  if n = 0 then .ok 0
  else if n = 1 then .ok 1
  else
    match drawTopBit src i n with
    | .ok v => .ok (if odd then orOne v else v)
    | .error e => .error e

/-- How many consultations RANDBITS makes: one, for `2 <= n <= 64*BIGINT_LIMBS` (R351). -/
def randbitsDraws (n : Nat) : Nat := if 2 ≤ n ∧ n ≤ Config.capBits then 1 else 0

/-- RANDBITS rd, n (R351). -/
def execRandbits (rd : Reg) (odd : Bool) (n : BitVec 32) (s : State) :
    Host.Outcome State Fault Refusal :=
  let t := s.spend (randbitsDraws (unsignedImm n))
  .next (t.complete (do
    checkRandbits (unsignedImm n) odd
    let v ← randbitsValue Config.source s.draws (unsignedImm n) odd
    t.putReg rd v))

/-- RANDRANGE rd, rs1, rs2 (R352). -/
def execRandrange (rd rs1 rs2 : Reg) (s : State) : Host.Outcome State Fault Refusal :=
  let min := s.reg rs1
  let max := s.reg rs2
  let t := s.spend (if min ≤ max then 1 else 0)
  .next (t.complete (do
    need (decide (min ≤ max)) .domainError
    let v ← drawUniform Config.source s.draws min max
    t.putReg rd v))

/-- The bytes of RANDBYTES (R353): one draw of `n` bytes, non-zero ones if `nz`. For `n = 0` there is no
byte to draw, and the command succeeds (DEDUCED, log 14). -/
def randomBytes (src : Source) (i n : Nat) (nz : Bool) : Except ErrCode (List Byte) :=
  if n = 0 then .ok []
  else
    match draw src i with
    | .ok r => .ok (if nz then nonzeroBytesOf r n else bytesOf r n)
    | .error e => .error e

/-- How many consultations RANDBYTES makes: one, for a valid range that is not empty (R353). -/
def randbytesDraws (a : Args) : Nat := if rangeOk a.src a.len && a.len != 0 then 1 else 0

/-- RANDBYTES (R353). -/
def execRandbytes (nz : Bool) (s : State) : Host.Outcome State Fault Refusal :=
  let a := s.latched
  let t := s.spend (randbytesDraws a)
  .next (t.complete (do
    need (rangeOk a.src a.len) .addressRange
    let bytes ← randomBytes Config.source s.draws a.len nz
    .ok ((t.write a.src bytes).setRes 0 0)))

/-- MRTEST rs1, k (R354). -/
def execMrtest (rs1 : Reg) (td : Bool) (k : BitVec 32) (s : State) :
    Host.Outcome State Fault Refusal :=
  let r := millerRabin Config.source s.draws (s.reg rs1) (roundCount (unsignedImm k)) td
  let t := s.spend r.2
  .next (t.complete (do
    let v ← r.1
    .ok (t.setRes (boolRes v) 0)))

/-- The operand checks of PRIMEGEN (R355). -/
def checkPrimegen (n : Nat) : Except ErrCode Unit := do
  need (decide (2 ≤ n)) .domainError
  need (decide (n ≤ Config.capBits)) .capacityExceeded

/-- PRIMEGEN after its checks (R355): the accepted candidate with its index, and the consultations
made. -/
def primegenSearch (src : Source) (i n k : Nat) : Except ErrCode (Int × Nat) × Nat :=
  let r := primeSearch src n k Config.primegenMaxAttempts 1 i
  (r.1, r.2 - i)

/-- PRIMEGEN rd, n, k (R355). -/
def execPrimegen (rd : Reg) (bits rounds : BitVec 16) (s : State) :
    Host.Outcome State Fault Refusal :=
  let n := bits.toNat
  match checkPrimegen n with
  | .error e => .next (s.fail e)
  | .ok _ =>
    let r := primegenSearch Config.source s.draws n (roundCount rounds.toNat)
    let t := s.spend r.2
    .next (t.complete (do
      let found ← r.1
      let u ← t.writeReg rd found.1
      .ok (u.setRes (natRes found.2) 0)))

end Sys2Proof.Machine
end

