-- ==== Sys2Proof/Machine/Dispatch.lean ====
section
/-! DEFINITION. One arm per command: `exec i s` is the completion step of the command `i` (R37). -/

namespace Sys2Proof.Machine

open Sys2Proof

def exec (i : Instr) (s : State) : Host.Outcome State Fault Refusal :=
  match i with
  | .nop => Sys2Proof.Machine.execNop s
  | .bseti rd imm => Sys2Proof.Machine.execBseti rd imm s
  | .bmov rd rs1 => Sys2Proof.Machine.execBmov rd rs1 s
  | .bneg rd rs1 => Sys2Proof.Machine.execBneg rd rs1 s
  | .badd rd rs1 rs2 => Sys2Proof.Machine.execBadd rd rs1 rs2 s
  | .bsub rd rs1 rs2 => Sys2Proof.Machine.execBsub rd rs1 rs2 s
  | .bmul rd rs1 rs2 => Sys2Proof.Machine.execBmul rd rs1 rs2 s
  | .bdivrem rd rd2 rs1 rs2 => Sys2Proof.Machine.execBdivrem rd rd2 rs1 rs2 s
  | .bmod rd rs1 rs2 => Sys2Proof.Machine.execBmod rd rs1 rs2 s
  | .bcmp rs1 rs2 => Sys2Proof.Machine.execBcmp rs1 rs2 s
  | .bshl rd rs1 k => Sys2Proof.Machine.execBshl rd rs1 k s
  | .bshr rd rs1 k => Sys2Proof.Machine.execBshr rd rs1 k s
  | .bbitlen rs1 => Sys2Proof.Machine.execBbitlen rs1 s
  | .bload rd le neg => Sys2Proof.Machine.execBload rd le neg s
  | .bstore rs1 le => Sys2Proof.Machine.execBstore rs1 le s
  | .bfromdec rd => Sys2Proof.Machine.execBfromdec rd s
  | .btodec rs1 => Sys2Proof.Machine.execBtodec rs1 s
  | .bmodmul rd rs1 rs2 rs3 => Sys2Proof.Machine.execBmodmul rd rs1 rs2 rs3 s
  | .bmodexp rd rs1 rs2 rs3 => Sys2Proof.Machine.execBmodexp rd rs1 rs2 rs3 s
  | .bgcd rd rs1 rs2 => Sys2Proof.Machine.execBgcd rd rs1 rs2 s
  | .bextgcd rd rd2 rd3 rs1 rs2 => Sys2Proof.Machine.execBextgcd rd rd2 rd3 rs1 rs2 s
  | .bmodinv rd rs1 rs2 => Sys2Proof.Machine.execBmodinv rd rs1 rs2 s
  | .qrtest rs1 rs2 => Sys2Proof.Machine.execQrtest rs1 rs2 s
  | .sqrtmod rd rs1 rs2 => Sys2Proof.Machine.execSqrtmod rd rs1 rs2 s
  | .randbits rd odd n => Sys2Proof.Machine.execRandbits rd odd n s
  | .randrange rd rs1 rs2 => Sys2Proof.Machine.execRandrange rd rs1 rs2 s
  | .randbytes nz => Sys2Proof.Machine.execRandbytes nz s
  | .mrtest rs1 td k => Sys2Proof.Machine.execMrtest rs1 td k s
  | .primegen rd bits rounds => Sys2Proof.Machine.execPrimegen rd bits rounds s
  | .aesblk dec keylen => Sys2Proof.Machine.execAesblk dec keylen s
  | .aesencs k mode keylen => Sys2Proof.Machine.execAesencs k mode keylen s
  | .aesencc k => Sys2Proof.Machine.execAesencc k s
  | .aesdecs k mode keylen => Sys2Proof.Machine.execAesdecs k mode keylen s
  | .aesdecc k => Sys2Proof.Machine.execAesdecc k s
  | .aesclr k => Sys2Proof.Machine.execAesclr k s
  | .aeslen mode dir first => Sys2Proof.Machine.execAeslen mode dir first s

end Sys2Proof.Machine
end

