-- ==== Sys2Proof/Machine/Sequencer.lean ====
section
/-! DEFINITION. The command sequencer (R36, R37) and the one total order of events (R117, R512). -/

namespace Sys2Proof.Machine

/-- The completion step (R37): a `Busy` sequencer decodes its word and executes it; a word that does not
decode completes with IllegalCommand (R159, R510). An `Idle` sequencer has nothing to complete. -/
def State.completion (s : State) : Host.Outcome State Fault Refusal :=
  match s.seq with
  | .idle => .next s
  | .busy w _ =>
    match decode w with
    | .ok i => exec i s
    | .error _ => .next (s.fail .illegalCommand)

/-- The effect of one event (R117), `rst` not asserted. -/
def State.serve (s : State) : Event → Host.Outcome State Fault Refusal
  | .access a => s.hostAccess a
  | .complete => s.completion
  | .rstAssert => .next s.assertRst
  | .rstRelease => .next s

/-- One step while `rst` is asserted (R550, U26, log 8): host accesses are not served and wait for the
release, which is taken ahead of them; nothing else happens. -/
def State.stepInReset (s : State) : State :=
  match s.events with
  | [] => s
  | .access _ :: _ =>
    if .rstRelease ∈ s.events then
      { s.releaseRst with events := s.events.erase .rstRelease }
    else s
  | .rstRelease :: es => { s.releaseRst with events := es }
  | .complete :: es => { s with events := es }
  | .rstAssert :: es => { s with events := es }

/-- One step of the core: the next event of the total order (R117). With none listed a `Busy` sequencer
takes its completion step (R571) and an `Idle` one waits (R551). -/
def State.advance (s : State) : Host.Outcome State Fault Refusal :=
  if s.rst then .next s.stepInReset
  else
    match s.events with
    | [] => s.completion
    | e :: es => { s with events := es }.serve e

/-- The command `w` launched (R45) with its completion the very next event (log 5). -/
def State.launchNow (s : State) (w : Word) : State :=
  { s.launch w with
    rst := false
    events := if s.events = [] then [] else .complete :: s.events }

end Sys2Proof.Machine
end

