-- ==== Sys2Proof/Machine/Step.lean ====
section
/-! DEFINITION. The step of the machine, and the state in which the next step runs a given command
word. -/

namespace Sys2Proof.Machine

/-- One step: the next event in the total order of R117. -/
def step (s : State) : Host.Outcome State Fault Refusal := s.advance

/-- `s` with the command word of `nbits` bits (the bits above are 0) launched, so that the next step is
its completion step (log 5). -/
def State.withFetchWord (s : State) (nbits w : Nat) : State :=
  s.launchNow (BitVec.ofNat 64 (w % 2 ^ nbits))

end Sys2Proof.Machine
end

