-- ==== Sys2Proof/Safety.lean ====
section
/-! DEFINITION. What counts as a legal state of the core and as a safe step, in the terms the statements
use. -/

namespace Sys2Proof.Machine

/-- A legal stream context (R50, R51, R455): an inactive one is at its reset value; an active one has a
key of 16, 24 or 32 bytes with zero bytes above it, and ECB holds zero feedback. -/
def Ctx.Legal (c : Ctx) : Prop :=
  (c.active = false → c = Ctx.reset) ∧
  (c.active = true →
    (c.keylen = 16 ∨ c.keylen = 24 ∨ c.keylen = 32) ∧
    (∀ i : Fin 32, c.keylen ≤ i → c.key[i] = 0) ∧
    (c.mode = .ecb → c.fb = .zero))

/-- Every BigInt register holds `v` with `|v| < CAP` (R30). -/
def State.RegsInRange (s : State) : Prop := ∀ i : Reg, (s.reg i).natAbs < Config.cap

/-- A running command holds CMD_LAST, with DONE and ERRCODE clear since its launch (R44, R45). -/
def State.BusyClean (s : State) : Prop :=
  ∀ w a, s.seq = .busy w a → s.cmdLast = w ∧ s.done = false ∧ s.errcode = 0

/-- While `rst` is asserted every element of the core holds its reset value (R550, R551). -/
def State.RstHeld (s : State) : Prop :=
  s.rst = true →
    s = { State.reset with rst := true, events := s.events, draws := s.draws }

/-- The legal states: registers in range (R30), contexts legal (R50), the buffer in canonical form (R100,
log 1), an error code of R501 (U5), a clean running command, and reset held while `rst` is asserted. -/
structure State.Legal (s : State) : Prop where
  regs : s.RegsInRange
  ctxs : ∀ k : CtxIx, (s.ctx k).Legal
  buf : Memory.wf s.buf
  errcode : s.errcode.toNat ≤ 13
  busyClean : s.BusyClean
  rstHeld : s.RstHeld

/-- Every byte of `BUF[addr .. addr+n)` is written (R555, R560): a command may read it. -/
def State.Written (s : State) (addr n : Nat) : Prop :=
  ∀ x, addr ≤ x → x < addr + n → ∃ b, memGet s.buf x = some b

/-- `BUF[addr .. addr+|bytes|)` holds exactly `bytes`. -/
def State.Holds (s : State) (addr : Nat) (bytes : List Byte) : Prop :=
  ∀ (i : Nat) (h : i < bytes.length), memGet s.buf (addr + i) = some bytes[i]

/-- How every completion ends (R502, R503): ERRCODE is `code`, DONE is 1 and the sequencer is `Idle`;
everything else is as in `t`. -/
def State.ended (t : State) (code : Byte) : State :=
  { t with errcode := code, done := true, seq := .idle }

/-- A safe step: the machine goes on. -/
def State.StepSafe (s : State) : Prop := ∃ t, step s = .next t

end Sys2Proof.Machine
end

