-- ==== Sys2Proof/Certificates/Slice0/Obligations.lean ====
section
/-! DEFINITION. The statements for the provers. Each docstring says which rule of the spec, or which
choice of the model, it formalises. `State.ended code` is the end of every completion (R502, R503): what
is not named in a record update before it is unchanged. -/

open Sys2Proof Sys2Proof.Machine

/-! ## Reset, step and legal states -/

/-- R551: every row of the table, after a hardware reset (`State.reset`) and after a soft reset (a CTRL
write with bit 1 set). BUF is unwritten after a hardware reset (R555). -/
def Obligations.ResetLeavesTheTableValues : Prop :=
  ((∀ i, State.reset.reg i = 0) ∧
    (∀ k, State.reset.ctx k = ⟨false, .enc, .ecb, 0, Vector.replicate 32 0, .zero⟩) ∧
    (∀ a, memGet State.reset.buf a = none) ∧ State.reset.seq = .idle ∧
    State.reset.ctrlWord = 0 ∧ State.reset.statusWord = 0 ∧ State.reset.cmdLast = 0 ∧
    State.reset.args = ⟨0, 0, 0, 0, 0⟩ ∧ State.reset.res0 = 0 ∧ State.reset.res1 = 0 ∧
    State.reset.irq = false ∧ idWord = 0x0000000156435343 ∧ paramWord = 0x0000001000800810) ∧
  ∀ (s : State) (v : Word), v.getLsbD 1 = true → ∃ t,
    s.hostAccess (.write 0x010 8 v) = .next t ∧
    (∀ i, t.reg i = 0) ∧
    (∀ k, t.ctx k = ⟨false, .enc, .ecb, 0, Vector.replicate 32 0, .zero⟩) ∧
    t.buf = s.buf ∧ t.seq = .idle ∧ t.ctrlWord = 0 ∧ t.statusWord = 0 ∧ t.cmdLast = 0 ∧
    t.args = ⟨0, 0, 0, 0, 0⟩ ∧ t.res0 = 0 ∧ t.res1 = 0 ∧ t.irq = false

/-- The state after reset is legal. -/
def Obligations.ResetStateIsLegal : Prop := State.reset.Legal

/-- Every step keeps the legal states: registers below CAP (R30, R200), contexts legal (R50, R51, R455),
the buffer canonical (log 1), error codes of R501, a clean running command (R45), reset held (R550). -/
def Obligations.EveryStepKeepsStatesLegal : Prop :=
  ∀ s t : State, s.Legal → step s = .next t → t.Legal

/-- The completion step decodes the running word and executes it (R37): with `rst` released, the sequencer
busy, and a completion event or no event next (the list is the model's choice, log 4), step is exec of the
decoded instruction, the event taken off; a word that decodes to no instruction completes with
IllegalCommand and no other effect (R159, R510). -/
def Obligations.StepRunsTheDecodedCommand : Prop :=
  ∀ (s : State) (w : Word) (a : Args), s.rst = false → s.seq = .busy w a →
    (∀ i : Instr, decode w = .ok i →
      (s.events = [] → step s = exec i s) ∧
      (∀ es, s.events = .complete :: es → step s = exec i { s with events := es })) ∧
    ((∀ i : Instr, decode w ≠ .ok i) →
      (s.events = [] → step s = .next (s.ended 1)) ∧
      (∀ es, s.events = .complete :: es →
        step s = .next (({ s with events := es } : State).ended 1)))

/-- The total order of R117 and R512 (the list itself is the model's choice, log 4): the next event is
served alone, and with none listed an idle core waits (R551). While `rst` is asserted nothing is served
(R550, U26; what waits and what is taken off meanwhile is the model's choice, log 8): a release that is
next is the release; an access that is next waits, and a step changes nothing but, where a release is
listed, the level of `rst` and the list; a completion or a further assertion that is next is only taken
off the list; with nothing listed nothing changes. -/
def Obligations.StepServesTheNextEvent : Prop :=
  (∀ (s : State) (es : List Event) (a : Access), s.rst = false → s.events = .access a :: es →
    step s = ({ s with events := es } : State).hostAccess a) ∧
  (∀ (s : State) (es : List Event), s.rst = false → s.events = .rstAssert :: es →
    step s = .next { State.reset with rst := true, events := es, draws := s.draws }) ∧
  (∀ (s : State) (es : List Event), s.rst = false → s.events = .rstRelease :: es →
    step s = .next { s with events := es }) ∧
  (∀ (s : State) (es : List Event), s.rst = false → s.seq = .idle → s.events = .complete :: es →
    step s = .next { s with events := es }) ∧
  (∀ s : State, s.rst = false → s.seq = .idle → s.events = [] → step s = .next s) ∧
  (∀ (s : State) (es : List Event), s.rst = true →
    (s.events = .rstRelease :: es → step s = .next { s with rst := false, events := es }) ∧
    (∀ a, s.events = .access a :: es → .rstRelease ∉ es → step s = .next s) ∧
    (∀ a, s.events = .access a :: es → .rstRelease ∈ es →
      step s = .next { s with rst := false, events := .access a :: es.erase .rstRelease }) ∧
    (s.events = .complete :: es → step s = .next { s with events := es }) ∧
    (s.events = .rstAssert :: es → step s = .next { s with events := es }) ∧
    (s.events = [] → step s = .next s))

/-- A hardware or a soft reset while a command runs abandons it (R553): the sequencer is idle, DONE is 0,
`irq` is 0, no register or context keeps a value of it, and the soft reset leaves BUF as it was. Two
clauses are the model's choices: every byte of BUF is unwritten again after a hardware reset at any time
(log 1), and a completion event that follows does nothing (log 4). -/
def Obligations.ResetAbandonsTheRunningCommand : Prop :=
  ∀ (s : State) (w : Word) (a : Args), s.seq = .busy w a →
    (∃ t, s.serve .rstAssert = .next t ∧ t.seq = .idle ∧ t.done = false ∧ t.irq = false ∧
      (∀ i, t.reg i = 0) ∧ (∀ k, t.ctx k = Ctx.reset) ∧ (∀ x, memGet t.buf x = none) ∧
      t.serve .complete = .next t) ∧
    (∀ v : Word, v.getLsbD 1 = true → ∃ t, s.serve (.access (.write 0x010 8 v)) = .next t ∧
      t.seq = .idle ∧ t.done = false ∧ t.irq = false ∧ (∀ i, t.reg i = 0) ∧
      (∀ k, t.ctx k = Ctx.reset) ∧ t.buf = s.buf ∧ t.serve .complete = .next t)

/-! ## The command word -/

/-- Decoding the word of a well-formed instruction gives the instruction back (R158, R159). -/
def Obligations.DecodeOfEncodeGivesTheInstruction : Prop :=
  ∀ i : Instr, i.wellFormed = true → decode (encode i) = .ok i

/-- A word that decodes is the encoding of its instruction, which is well formed: no bit of a word is
ignored (R155, R159). -/
def Obligations.EncodeOfDecodeGivesTheWord : Prop :=
  ∀ (w : Word) (i : Instr), decode w = .ok i → i.wellFormed = true ∧ encode i = w

/-- Words written out from the encodings of the rules decode to the commands the rules name. -/
def Obligations.WrittenOutWordsDecode : Prop :=
  decode 0x0000000000000000 = .ok .nop ∧
  decode 0xFFFFFFFB00000001 = .ok (.bseti 0 (BitVec.ofInt 32 (-5))) ∧
  decode 0x0000000003010207 = .ok (.bdivrem 2 3 0 1) ∧
  decode 0x0000000030000010 = .ok (.bload 0 true true) ∧
  decode 0x0000000003410223 = .ok (.bextgcd 2 3 4 0 1) ∧
  decode 0x0028020000000134 = .ok (.primegen 1 512 40) ∧
  decode 0x0000001010000143 = .ok (.aesdecs 1 .cbc 16) ∧
  decode 0x0000000310000046 = .ok (.aeslen .cbc .dec true)

/-- R510: a launched word completes with IllegalCommand and no other effect exactly where one of the six
conditions holds; elsewhere it decodes. The rows are the match and mask columns of opcode_table.json: a
word fits a row iff its OPC is the row's, every unused field and reserved bit is 0, and a context field
is below N_CTX (conditions 1 to 3). -/
def Obligations.IllegalCommandExactlyOnTheSixConditions : Prop :=
  let rows : List (Word × Word) :=
    [(0x00, 0xFFFFFFFFFFFFFFFF), (0x01, 0x00000000FFFFF0FF), (0x02, 0xFFFFFFFFFFFF00FF),
     (0x03, 0xFFFFFFFFFFFF00FF), (0x04, 0xFFFFFFFFFFF000FF), (0x05, 0xFFFFFFFFFFF000FF),
     (0x06, 0xFFFFFFFFFFF000FF), (0x07, 0xFFFFFFFFF0F000FF), (0x08, 0xFFFFFFFFFFF000FF),
     (0x09, 0xFFFFFFFFFFF00FFF), (0x0A, 0x00000000FFFF00FF), (0x0B, 0x00000000FFFF00FF),
     (0x0C, 0xFFFFFFFFFFFF0FFF)]
    ++ [(0x10, 0xFFFFFFFFCFFFF0FF), (0x11, 0xFFFFFFFFEFFF0FFF), (0x12, 0xFFFFFFFFFFFFF0FF),
     (0x13, 0xFFFFFFFFFFFF0FFF), (0x20, 0xFFFFFFFFFF0000FF), (0x21, 0xFFFFFFFFFF0000FF),
     (0x22, 0xFFFFFFFFFFF000FF), (0x23, 0xFFFFFFFFF00000FF), (0x24, 0xFFFFFFFFFFF000FF),
     (0x25, 0xFFFFFFFFFFF00FFF), (0x26, 0xFFFFFFFFFFF000FF)]
    ++ [(0x30, 0x00000000EFFFF0FF), (0x31, 0xFFFFFFFFFFF000FF), (0x32, 0xFFFFFFFFEFFFFFFF),
     (0x33, 0x00000000EFFF0FFF), (0x34, 0x00000000FFFFF0FF), (0x40, 0x00000000EFFFFFFF),
     (0x41, 0x000000008FFFF8FF), (0x42, 0xFFFFFFFFFFFFF8FF), (0x43, 0x000000008FFFF8FF),
     (0x44, 0xFFFFFFFFFFFFF8FF), (0x45, 0xFFFFFFFFFFFFF8FF), (0x46, 0xFFFFFFFC8FFFFFFF)]
  let illegal : Word → Prop := fun w =>
    (∀ r ∈ rows, w &&& r.2 ≠ r.1) ∨
    ((w.extractLsb' 0 8 = 0x41 ∨ w.extractLsb' 0 8 = 0x43 ∨ w.extractLsb' 0 8 = 0x46) ∧
      5 ≤ (w.extractLsb' 28 3).toNat) ∨
    (w.extractLsb' 0 8 = 0x07 ∧ w.extractLsb' 8 4 = w.extractLsb' 24 4) ∨
    (w.extractLsb' 0 8 = 0x23 ∧ (w.extractLsb' 8 4 = w.extractLsb' 24 4 ∨
      w.extractLsb' 8 4 = w.extractLsb' 20 4 ∨ w.extractLsb' 24 4 = w.extractLsb' 20 4))
  ∀ (s : State) (w : Word) (a : Args), s.seq = .busy w a →
    (illegal w → s.serve .complete = .next (s.ended 1)) ∧
    (¬ illegal w → ∃ i, decode w = .ok i)

/-! ## The host port

The field `resp` is where the model records what the port answered (log 6). -/

/-- The STATUS register as it is read and written: its fields at their places, reserved bits 0, and only
DONE and DROPPED answering a write, by clearing on 1 (10_state.md section 3). -/
def Obligations.StatusRegisterReadsAndClears : Prop :=
  ∀ s : State,
    (∃ v : Word, s.hostAccess (.read 0x018 8) = .next { s with resp := .data v } ∧
      (v.getLsbD 0 = true ↔ s.seq ≠ .idle) ∧ v.getLsbD 1 = s.done ∧ v.getLsbD 2 = s.dropped ∧
      (v.getLsbD 3 = true ↔ s.errcode ≠ 0) ∧ v.extractLsb' 4 4 = 0 ∧
      v.extractLsb' 8 8 = s.errcode ∧ v.extractLsb' 16 48 = 0) ∧
    (∀ x : Word, s.hostAccess (.write 0x018 8 x) = .next { s with
      done := s.done && !x.getLsbD 1, dropped := s.dropped && !x.getLsbD 2, resp := .ack })

/-- R41 and R42: ID and PARAM read as their constants in every state, and a write to either is ignored. -/
def Obligations.IdAndParamAreConstant : Prop :=
  ∀ (s : State) (x : Word),
    s.hostAccess (.read 0x000 8) = .next { s with resp := .data 0x0000000156435343 } ∧
    s.hostAccess (.read 0x008 8) = .next { s with resp := .data 0x0000001000800810 } ∧
    s.hostAccess (.write 0x000 8 x) = .next { s with resp := .ack } ∧
    s.hostAccess (.write 0x008 8 x) = .next { s with resp := .ack }

/-- R45: the CMD register: an accepted write launches and latches the arguments, a write while busy is
only recorded as dropped, a read gives CMD_LAST, and no narrower write launches. -/
def Obligations.CmdWriteLaunchesOrIsDropped : Prop :=
  ∀ (s : State) (w : Word),
    (s.seq = .idle → s.hostAccess (.write 0x020 8 w) = .next { s with
      cmdLast := w, seq := .busy w s.args, done := false, errcode := 0, resp := .ack }) ∧
    (∀ w' a, s.seq = .busy w' a →
      s.hostAccess (.write 0x020 8 w) = .next { s with dropped := true, resp := .ack }) ∧
    s.hostAccess (.read 0x020 8) = .next { s with resp := .data s.cmdLast } ∧
    (∀ width, width ≠ 8 →
      s.hostAccess (.write 0x020 width w) = .next { s with resp := .error }) ∧
    State.reset.cmdLast = 0

/-- R43 and R552: the CTRL register, and the soft reset it triggers: every element but BUF takes its reset
value in the step of the write, IRQ_EN included, whatever else the write says. -/
def Obligations.CtrlWriteEnablesOrResets : Prop :=
  ∀ (s : State) (v : Word),
    (v.getLsbD 1 = false → s.hostAccess (.write 0x010 8 v) =
      .next { s with irqEn := v.getLsbD 0, resp := .ack }) ∧
    (v.getLsbD 1 = true → s.hostAccess (.write 0x010 8 v) =
      .next { State.reset with
        buf := s.buf, rst := s.rst, events := s.events, draws := s.draws, resp := .ack }) ∧
    s.hostAccess (.read 0x010 8) =
      .next { s with resp := .data (if s.irqEn then 1 else 0) }

/-- R48 and R520: `irq` is IRQ_EN and DONE; it is 0 after reset, follows IRQ_EN at every completion,
success or error, and falls when the host writes 1 to DONE or launches a command. -/
def Obligations.IrqRisesAtCompletionAndFallsWhenCleared : Prop :=
  State.reset.irq = false ∧
  (∀ s : State, s.irq = true ↔ s.irqEn = true ∧ s.done = true) ∧
  (∀ (i : Instr) (s t : State), exec i s = .next t → t.irq = s.irqEn) ∧
  (∀ (s : State) (x : Word), x.getLsbD 1 = true →
    ∃ t, s.hostAccess (.write 0x018 8 x) = .next t ∧ t.irq = false) ∧
  (∀ (s : State) (w : Word), s.seq = .idle →
    ∃ t, s.hostAccess (.write 0x020 8 w) = .next t ∧ t.irq = false)

/-- R46: the argument registers hold what is written and read it back; a write while a command runs does
not reach its latched copy; no command writes them. -/
def Obligations.ArgRegistersHoldAndAreLatched : Prop :=
  (∀ (s : State) (v : Word),
    s.hostAccess (.write 0x028 8 v) =
      .next { s with args := { s.args with arg0 := v }, resp := .ack } ∧
    s.hostAccess (.write 0x030 8 v) =
      .next { s with args := { s.args with arg1 := v }, resp := .ack } ∧
    s.hostAccess (.write 0x038 8 v) =
      .next { s with args := { s.args with arg2 := v }, resp := .ack } ∧
    s.hostAccess (.write 0x040 8 v) =
      .next { s with args := { s.args with arg3 := v }, resp := .ack } ∧
    s.hostAccess (.write 0x048 8 v) =
      .next { s with args := { s.args with arg4 := v }, resp := .ack } ∧
    s.hostAccess (.read 0x028 8) = .next { s with resp := .data s.args.arg0 } ∧
    s.hostAccess (.read 0x030 8) = .next { s with resp := .data s.args.arg1 } ∧
    s.hostAccess (.read 0x038 8) = .next { s with resp := .data s.args.arg2 } ∧
    s.hostAccess (.read 0x040 8) = .next { s with resp := .data s.args.arg3 } ∧
    s.hostAccess (.read 0x048 8) = .next { s with resp := .data s.args.arg4 }) ∧
  (∀ (s t : State) (w : Word) (a : Args) (offset : Nat) (v : Word), s.seq = .busy w a →
    offset ∈ [0x028, 0x030, 0x038, 0x040, 0x048] →
    s.hostAccess (.write offset 8 v) = .next t → t.latched = a) ∧
  (∀ (i : Instr) (s t : State), exec i s = .next t → t.args = s.args) ∧
  State.reset.args = ⟨0, 0, 0, 0, 0⟩

/-- R110: in the register block only a 64-bit access at an 8-byte-aligned offset is legal; any other ends
in a bus error without effect. A legal read answers data and changes nothing else; RES0 and RES1 read as
they stand, ignore writes, and a reserved offset reads 0 and ignores writes (10_state.md section 3). -/
def Obligations.RegisterBlockTakesAlignedWordsOnly : Prop :=
  ∀ (s : State) (offset width : Nat) (v : Word), offset < 0x10000 →
    (¬ (width = 8 ∧ offset % 8 = 0) →
      s.hostAccess (.read offset width) = .next { s with resp := .error } ∧
      s.hostAccess (.write offset width v) = .next { s with resp := .error }) ∧
    (width = 8 → offset % 8 = 0 →
      (∃ d, s.hostAccess (.read offset width) = .next { s with resp := .data d }) ∧
      (∃ t, s.hostAccess (.write offset width v) = .next t ∧ t.resp = .ack) ∧
      (offset = 0x050 → s.hostAccess (.read offset width) = .next { s with resp := .data s.res0 }) ∧
      (offset = 0x058 → s.hostAccess (.read offset width) = .next { s with resp := .data s.res1 }) ∧
      (0x050 ≤ offset → s.hostAccess (.write offset width v) = .next { s with resp := .ack }) ∧
      (0x060 ≤ offset → s.hostAccess (.read offset width) = .next { s with resp := .data 0 }))

/-- R111 and R113: the window takes 1, 2, 4 or 8 bytes at a multiple of the width, and nothing at all while
BUSY; anything else ends in a bus error without effect. -/
def Obligations.WindowTakesAlignedIdleAccessesOnly : Prop :=
  ∀ (s : State) (a width : Nat) (v : Word), a < 65536 →
    (s.seq ≠ .idle ∨ ¬ ((width = 1 ∨ width = 2 ∨ width = 4 ∨ width = 8) ∧ a % width = 0) →
      s.hostAccess (.read (0x10000 + a) width) = .next { s with resp := .error } ∧
      s.hostAccess (.write (0x10000 + a) width v) = .next { s with resp := .error }) ∧
    (s.seq = .idle → (width = 1 ∨ width = 2 ∨ width = 4 ∨ width = 8) → a % width = 0 →
      a + width ≤ 65536 ∧
      (∃ t, s.hostAccess (.write (0x10000 + a) width v) = .next t ∧ t.resp = .ack) ∧
      (∀ t, s.hostAccess (.read (0x10000 + a) width) = .next t → ∃ d, t.resp = .data d))

/-- The window is little-endian (20_memory.md section 3): a legal write stores byte `i` of the value at
offset `a + i` and nothing else, and a legal read gives the sum of the bytes at rising powers of 256; an
unwritten byte in the range is the host's fault (R555). -/
def Obligations.WindowIsLittleEndian : Prop :=
  ∀ (s : State) (a width : Nat) (v : Word), Memory.wf s.buf → s.seq = .idle → a < 65536 →
    (width = 1 ∨ width = 2 ∨ width = 4 ∨ width = 8) → a % width = 0 →
    (∃ t, s.hostAccess (.write (0x10000 + a) width v) = .next t ∧
      t = { s with buf := t.buf, resp := .ack } ∧
      ∀ x, memGet t.buf x = if a ≤ x ∧ x < a + width
        then some (BitVec.ofNat 8 (v.toNat / 256 ^ (x - a))) else memGet s.buf x) ∧
    (∀ bytes : List Byte, bytes.length = width → s.Holds a bytes →
      s.hostAccess (.read (0x10000 + a) width) = .next { s with
        resp := .data (BitVec.ofNat 64 (Nat.ofDigits 256 (bytes.map BitVec.toNat))) }) ∧
    (¬ s.Written a width → ∃ x, a ≤ x ∧ x < a + width ∧ memGet s.buf x = none ∧
      s.hostAccess (.read (0x10000 + a) width) = .fault (.unwrittenRead .host x))

/-- Reads have no side effect (first sentence of R114): whatever a read answers, nothing but the answer
changes, at every offset and width; an offset at or above 0x20000 is not decoded and changes nothing for
a write either (the answer `notDecoded` is the model's, log 7). -/
def Obligations.HostReadsChangeNothing : Prop :=
  (∀ (s t : State) (offset width : Nat),
    s.hostAccess (.read offset width) = .next t → t = { s with resp := t.resp }) ∧
  (∀ (s : State) (offset width : Nat) (v : Word), 0x20000 ≤ offset →
    s.hostAccess (.read offset width) = .next { s with resp := .notDecoded } ∧
    s.hostAccess (.write offset width v) = .next { s with resp := .notDecoded })

/-! ## What every command does and does not do -/

/-- Every completion, success or error, sets DONE, frees the sequencer, leaves a code of R501, and keeps
CMD_LAST, the ARG registers, IRQ_EN, DROPPED and `rst` (R502, R503); the model's list of events and its
last answer stay. -/
def Obligations.EveryCompletionKeepsTheHostRegisters : Prop :=
  ∀ (i : Instr) (s t : State), exec i s = .next t →
    t.done = true ∧ t.seq = .idle ∧ t.errcode.toNat ≤ 13 ∧ t.errcode ≠ 1 ∧
    t.cmdLast = s.cmdLast ∧ t.args = s.args ∧ t.irqEn = s.irqEn ∧ t.dropped = s.dropped ∧
    t.rst = s.rst ∧ t.events = s.events ∧ t.resp = s.resp ∧ s.draws ≤ t.draws

/-- R503: a completion with an error changes no register, context, buffer byte, RES0 or RES1: only
ERRCODE, DONE and the sequencer. (The model's count of draws may advance, log 2.) -/
def Obligations.ErrorsChangeNothingElse : Prop :=
  ∀ (i : Instr) (s t : State), exec i s = .next t → t.errcode ≠ 0 →
    t = ({ s with draws := t.draws } : State).ended t.errcode

/-- A command stops the machine only by reading an unwritten byte of BUF, and none is refused; and where
the checks that come before a command's reads pass, an unwritten byte in a range it reads does stop it, at
such a byte (R555 for the core). The ranges are those of the rules: the input of BLOAD and BFROMDEC, the
key and the source of AESBLK and of the Starts, the source of the Continues. -/
def Obligations.OnlyUnwrittenReadsStopACommand : Prop :=
  (∀ (i : Instr) (s : State),
    (∀ r, exec i s ≠ .refused r) ∧
    (∀ f, exec i s = .fault f → ∃ x, x < 65536 ∧ memGet s.buf x = none ∧
      f = .unwrittenRead .core x ∧
      (match i with
        | .bload _ _ _ | .bfromdec _ | .aesblk _ _ | .aesencs _ _ _ | .aesencc _
        | .aesdecs _ _ _ | .aesdecc _ => True
        | _ => False))) ∧
  (∀ (s : State) (rd : Reg) (le neg dec : Bool) (k : CtxIx) (mode : Mode) (imm : BitVec 32),
    let KL := imm.toNat
    let src := s.latched.arg0.toNat
    let L := s.latched.arg1.toNat
    let dst := s.latched.arg2.toNat
    let cap := s.latched.arg3.toNat
    let ka := s.latched.arg4.toNat
    let iv := if mode = .ecb then 0 else 16
    let lenOk := KL = 16 ∨ KL = 24 ∨ KL = 32
    let chunkOk := src + L ≤ 65536 ∧ dst + cap ≤ 65536
    let open_ : Dir → Prop := fun d => (s.ctx k).active = true ∧ (s.ctx k).dir = d
    let stops : Instr → List (Nat × Nat) → Prop := fun i ranges =>
      (∃ r ∈ ranges, ¬ s.Written r.1 r.2) → ∃ r ∈ ranges, ∃ x, r.1 ≤ x ∧ x < r.1 + r.2 ∧
        memGet s.buf x = none ∧ exec i s = .fault (.unwrittenRead .core x)
    (src + L ≤ 65536 → stops (.bload rd le neg) [(src, L)] ∧ stops (.bfromdec rd) [(src, L)]) ∧
    (lenOk → ka + KL ≤ 65536 → src + 16 ≤ 65536 → dst + 16 ≤ 65536 →
      stops (.aesblk dec imm) [(ka, KL), (src, 16)]) ∧
    (lenOk → chunkOk → ka + KL ≤ 65536 → L ≠ 0 → 16 * (L / 16 + 1) + iv ≤ cap →
      stops (.aesencs k mode imm) [(ka, KL), (src, L)]) ∧
    (open_ .enc → chunkOk → 16 * (L / 16 + 1) ≤ cap → stops (.aesencc k) [(src, L)]) ∧
    (lenOk → chunkOk → ka + KL ≤ 65536 → L % 16 = 0 → 16 + iv ≤ L →
      stops (.aesdecs k mode imm) [(ka, KL), (src, L)]) ∧
    (open_ .dec → chunkOk → L % 16 = 0 → stops (.aesdecc k) [(src, L)]))

/-- R33 and the frames of all commands: a register changes only if it is a destination of the command, a
context only under a stream command that names it, a buffer byte only inside the range the command
writes (R106), and the model's count of draws only under a command that draws. -/
def Obligations.CommandsTouchOnlyTheirDestinations : Prop :=
  ∀ (i : Instr) (s t : State), Memory.wf s.buf → exec i s = .next t →
    (∀ j, t.reg j ≠ s.reg j →
      match i with
      | .bseti rd _ | .bmov rd _ | .bneg rd _ | .badd rd _ _ | .bsub rd _ _ | .bmul rd _ _
      | .bmod rd _ _ | .bshl rd _ _ | .bshr rd _ _ | .bload rd _ _ | .bfromdec rd
      | .bmodmul rd _ _ _ | .bmodexp rd _ _ _ | .bgcd rd _ _ | .bmodinv rd _ _ | .sqrtmod rd _ _
      | .randbits rd _ _ | .randrange rd _ _ | .primegen rd _ _ => j = rd
      | .bdivrem rd rd2 _ _ => j = rd ∨ j = rd2
      | .bextgcd rd rd2 rd3 _ _ => j = rd ∨ j = rd2 ∨ j = rd3
      | _ => False) ∧
    (∀ k, t.ctx k ≠ s.ctx k →
      match i with
      | .aesencs k' _ _ | .aesencc k' | .aesdecs k' _ _ | .aesdecc k' | .aesclr k' => k = k'
      | _ => False) ∧
    (∀ x, memGet t.buf x ≠ memGet s.buf x →
      match i with
      | .bstore _ _ | .btodec _ | .randbytes _ =>
        s.latched.arg0.toNat ≤ x ∧ x < s.latched.arg0.toNat + s.latched.arg1.toNat
      | .aesblk _ _ => s.latched.arg2.toNat ≤ x ∧ x < s.latched.arg2.toNat + 16
      | .aesencs _ _ _ | .aesencc _ | .aesdecs _ _ _ | .aesdecc _ =>
        s.latched.arg2.toNat ≤ x ∧ x < s.latched.arg2.toNat + s.latched.arg3.toNat
      | _ => False) ∧
    (t.draws ≠ s.draws →
      match i with
      | .randbits _ _ _ | .randrange _ _ _ | .randbytes _ | .mrtest _ _ _ | .primegen _ _ _
      | .aesencs _ _ _ => True
      | _ => False)

/-! ## BigInt arithmetic -/

/-- R201 to R204: NOP clears the results; BSETI writes the sign-extended immediate; BMOV copies and BNEG
negates a register in range. Nothing else changes. -/
def Obligations.MovesWriteTheirValue : Prop :=
  ∀ (s : State) (rd rs1 : Reg) (imm : BitVec 32),
    exec .nop s = .next (({ s with res0 := 0, res1 := 0 } : State).ended 0) ∧
    exec (.bseti rd imm) s = .next (({ s with
      regs := s.regs.set rd imm.toInt, res0 := 0, res1 := 0 } : State).ended 0) ∧
    ((s.reg rs1).natAbs < 2 ^ 8192 →
      exec (.bmov rd rs1) s = .next (({ s with
        regs := s.regs.set rd (s.reg rs1), res0 := 0, res1 := 0 } : State).ended 0) ∧
      exec (.bneg rd rs1) s = .next (({ s with
        regs := s.regs.set rd (-s.reg rs1), res0 := 0, res1 := 0 } : State).ended 0))

/-- R205, R206, R207 with R200: the exact sum, difference and product where it is below CAP in magnitude,
CapacityExceeded with no other effect elsewhere; never a wrapped or truncated value (R214). -/
def Obligations.AddSubMulAreExactOrExceedCapacity : Prop :=
  ∀ (s : State) (rd rs1 rs2 : Reg),
    let outcome : Int → Host.Outcome State Fault Refusal := fun v =>
      if v.natAbs < 2 ^ 8192 then
        .next (({ s with regs := s.regs.set rd v, res0 := 0, res1 := 0 } : State).ended 0)
      else .next (s.ended 9)
    exec (.badd rd rs1 rs2) s = outcome (s.reg rs1 + s.reg rs2) ∧
    exec (.bsub rd rs1 rs2) s = outcome (s.reg rs1 - s.reg rs2) ∧
    exec (.bmul rd rs1 rs2) s = outcome (s.reg rs1 * s.reg rs2)

/-- R208: BDIVREM of registers in range: the quotient and the remainder with `q*d + r = a`, `|r| < |d|`
and `r` zero or of the dividend's sign, or DivisionByZero. -/
def Obligations.BdivremTruncatesTowardZero : Prop :=
  ∀ (s : State) (rd rd2 rs1 rs2 : Reg), rd ≠ rd2 → (s.reg rs1).natAbs < 2 ^ 8192 →
    (s.reg rs2).natAbs < 2 ^ 8192 →
    (s.reg rs2 = 0 → exec (.bdivrem rd rd2 rs1 rs2) s = .next (s.ended 2)) ∧
    (s.reg rs2 ≠ 0 → ∃ q r : Int, q * s.reg rs2 + r = s.reg rs1 ∧ |r| < |s.reg rs2| ∧
      (r = 0 ∨ (r < 0 ↔ s.reg rs1 < 0)) ∧
      exec (.bdivrem rd rd2 rs1 rs2) s = .next (({ s with
        regs := (s.regs.set rd q).set rd2 r, res0 := 0, res1 := 0 } : State).ended 0))

/-- R209: BMOD gives the residue in `[0, m-1]`; a zero modulus is DivisionByZero, a negative one
DomainError. -/
def Obligations.BmodGivesTheResidue : Prop :=
  ∀ (s : State) (rd rs1 rs2 : Reg), (s.reg rs2).natAbs < 2 ^ 8192 →
    (s.reg rs2 = 0 → exec (.bmod rd rs1 rs2) s = .next (s.ended 2)) ∧
    (s.reg rs2 < 0 → exec (.bmod rd rs1 rs2) s = .next (s.ended 12)) ∧
    (0 < s.reg rs2 → ∃ r : Int, 0 ≤ r ∧ r < s.reg rs2 ∧ s.reg rs2 ∣ s.reg rs1 - r ∧
      exec (.bmod rd rs1 rs2) s = .next (({ s with
        regs := s.regs.set rd r, res0 := 0, res1 := 0 } : State).ended 0))

/-- R210 and R213: BCMP answers -1, 0 or +1 in two's complement; BBITLEN answers the least `n` with
`|a| < 2^n`, and the sign. No register is written. -/
def Obligations.CompareAndBitLengthAnswer : Prop :=
  ∀ (s : State) (rs1 rs2 : Reg),
    exec (.bcmp rs1 rs2) s = .next (({ s with
      res0 := if s.reg rs1 < s.reg rs2 then 0xFFFFFFFFFFFFFFFF
        else if s.reg rs1 = s.reg rs2 then 0 else 1
      res1 := 0 } : State).ended 0) ∧
    ∃ n : Nat, (s.reg rs1).natAbs < 2 ^ n ∧ (∀ m, (s.reg rs1).natAbs < 2 ^ m → n ≤ m) ∧
      exec (.bbitlen rs1) s = .next (({ s with
        res0 := BitVec.ofNat 64 n, res1 := if s.reg rs1 < 0 then 1 else 0 } : State).ended 0)

/-- R211 and R212: shifts act on the magnitude and keep the sign, for every shift amount; a left shift
that leaves the capacity is CapacityExceeded. -/
def Obligations.ShiftsActOnTheMagnitude : Prop :=
  ∀ (s : State) (rd rs1 : Reg) (k : BitVec 32),
    let a := s.reg rs1
    (exec (.bshl rd rs1 k) s =
      if a.natAbs * 2 ^ k.toNat < 2 ^ 8192 then .next (({ s with
        regs := s.regs.set rd ((if a < 0 then -1 else 1) * ((a.natAbs * 2 ^ k.toNat : Nat) : Int))
        res0 := 0, res1 := 0 } : State).ended 0)
      else .next (s.ended 9)) ∧
    (a.natAbs < 2 ^ 8192 → exec (.bshr rd rs1 k) s = .next (({ s with
      regs := s.regs.set rd ((if a < 0 then -1 else 1) * ((a.natAbs / 2 ^ k.toNat : Nat) : Int))
      res0 := 0, res1 := 0 } : State).ended 0))

/-! ## Conversion -/

/-- R230: BLOAD, its errors in order and its value: an unsigned magnitude in either byte order, with a
separate sign flag. -/
def Obligations.BloadImportsTheMagnitude : Prop :=
  ∀ (s : State) (rd : Reg) (le neg : Bool),
    let a := s.latched.arg0.toNat
    let n := s.latched.arg1.toNat
    (65536 < a + n → exec (.bload rd le neg) s = .next (s.ended 10)) ∧
    (a + n ≤ 65536 → n = 0 → exec (.bload rd le neg) s = .next (s.ended 6)) ∧
    (∀ bytes : List Byte, a + n ≤ 65536 → n ≠ 0 → bytes.length = n → s.Holds a bytes →
      let mag : Nat := Nat.ofDigits 256 ((if le then bytes else bytes.reverse).map BitVec.toNat)
      exec (.bload rd le neg) s =
        if mag < 2 ^ 8192 then .next (({ s with
          regs := s.regs.set rd (if neg then -(mag : Int) else mag), res0 := 0, res1 := 0 }
            : State).ended 0)
        else .next (s.ended 9))

/-- R231: BSTORE, its errors in order, the exactly `c` bytes it writes (zero-filled at the high-order
end), the byte length in RES0 and the sign in RES1. Every other byte reads as before. -/
def Obligations.BstoreExportsTheMagnitude : Prop :=
  ∀ (s : State) (rs1 : Reg) (le : Bool) (n : Nat), Memory.wf s.buf →
    (s.reg rs1).natAbs < 256 ^ n → (∀ m, (s.reg rs1).natAbs < 256 ^ m → n ≤ m) →
    let a := s.latched.arg0.toNat
    let c := s.latched.arg1.toNat
    (65536 < a + c → exec (.bstore rs1 le) s = .next (s.ended 10)) ∧
    (a + c ≤ 65536 → c < n → exec (.bstore rs1 le) s = .next (s.ended 5)) ∧
    (a + c ≤ 65536 → n ≤ c → ∃ t, exec (.bstore rs1 le) s = .next t ∧
      t = ({ s with
        buf := t.buf, res0 := BitVec.ofNat 64 n
        res1 := if s.reg rs1 < 0 then 1 else 0 } : State).ended 0 ∧
      ∀ x, memGet t.buf x = if a ≤ x ∧ x < a + c
        then some (BitVec.ofNat 8
          ((s.reg rs1).natAbs / 256 ^ (if le then x - a else a + c - 1 - x)))
        else memGet s.buf x)

/-- R232: BFROMDEC, its errors in order and its value on the grammar `'-'? [0-9]+`. -/
def Obligations.BfromdecParsesTheGrammar : Prop :=
  ∀ (s : State) (rd : Reg),
    let a := s.latched.arg0.toNat
    let n := s.latched.arg1.toNat
    (65536 < a + n → exec (.bfromdec rd) s = .next (s.ended 10)) ∧
    (a + n ≤ 65536 → n = 0 → exec (.bfromdec rd) s = .next (s.ended 6)) ∧
    (∀ bytes : List Byte, a + n ≤ 65536 → n ≠ 0 → bytes.length = n → s.Holds a bytes →
      (∀ (neg : Bool) (digits : List Nat), digits ≠ [] → (∀ d ∈ digits, d < 10) →
        bytes = (if neg then [0x2D] else []) ++ digits.map (fun d => BitVec.ofNat 8 (0x30 + d)) →
        let mag : Nat := Nat.ofDigits 10 digits.reverse
        exec (.bfromdec rd) s =
          if mag < 2 ^ 8192 then .next (({ s with
            regs := s.regs.set rd (if neg then -(mag : Int) else mag), res0 := 0, res1 := 0 }
              : State).ended 0)
          else .next (s.ended 9)) ∧
      ((∀ (neg : Bool) (digits : List Nat), digits ≠ [] → (∀ d ∈ digits, d < 10) →
        bytes ≠ (if neg then [0x2D] else []) ++ digits.map (fun d => BitVec.ofNat 8 (0x30 + d))) →
        exec (.bfromdec rd) s = .next (s.ended 13)))

/-- R233: BTODEC writes the decimal string with no leading zero and no terminator, and leaves the
capacity beyond it untouched. -/
def Obligations.BtodecWritesTheDecimalString : Prop :=
  ∀ (s : State) (rs1 : Reg), Memory.wf s.buf →
    let a := s.latched.arg0.toNat
    let c := s.latched.arg1.toNat
    let v := s.reg rs1
    let text : List Byte := (if v < 0 then [0x2D] else []) ++
      (if v = 0 then [0x30]
        else (Nat.digits 10 v.natAbs).reverse.map fun d => BitVec.ofNat 8 (0x30 + d))
    (65536 < a + c → exec (.btodec rs1) s = .next (s.ended 10)) ∧
    (a + c ≤ 65536 → c < text.length → exec (.btodec rs1) s = .next (s.ended 5)) ∧
    (a + c ≤ 65536 → text.length ≤ c → ∃ t, exec (.btodec rs1) s = .next t ∧
      t = ({ s with buf := t.buf, res0 := BitVec.ofNat 64 text.length, res1 := 0 } : State).ended 0 ∧
      ∀ x, memGet t.buf x =
        if a ≤ x ∧ x < a + text.length then text[x - a]? else memGet s.buf x)

/-- What BSTORE exports BLOAD imports back with the same arguments, byte order and the sign as flag; and
what BTODEC writes BFROMDEC reads back, given the length that RES0 reports (sections 5 of
40_bigint_basic.md). -/
def Obligations.ExportedValuesImportBack : Prop :=
  (∀ (s t : State) (rs1 rd : Reg) (le : Bool), Memory.wf s.buf →
    (s.reg rs1).natAbs < 2 ^ 8192 → s.latched.arg1 ≠ 0 →
    exec (.bstore rs1 le) s = .next t → t.errcode = 0 →
    ∃ u, exec (.bload rd le (decide (s.reg rs1 < 0))) { t with seq := s.seq } = .next u ∧
      u.errcode = 0 ∧ u.reg rd = s.reg rs1) ∧
  (∀ (s t : State) (rs1 rd : Reg) (w : Word), Memory.wf s.buf → (s.reg rs1).natAbs < 2 ^ 8192 →
    exec (.btodec rs1) s = .next t → t.errcode = 0 →
    ∃ u, exec (.bfromdec rd)
        { t with seq := .busy w { s.latched with arg1 := t.res0 } } = .next u ∧
      u.errcode = 0 ∧ u.reg rd = s.reg rs1)

/-! ## Modular arithmetic -/

/-- R301: BMODMUL writes the exact residue of the exact product, even where the product exceeds CAP. -/
def Obligations.BmodmulGivesTheExactResidue : Prop :=
  ∀ (s : State) (rd rs1 rs2 rs3 : Reg), (s.reg rs3).natAbs < 2 ^ 8192 →
    (s.reg rs3 = 0 → exec (.bmodmul rd rs1 rs2 rs3) s = .next (s.ended 2)) ∧
    (s.reg rs3 < 0 → exec (.bmodmul rd rs1 rs2 rs3) s = .next (s.ended 12)) ∧
    (0 < s.reg rs3 → ∃ r : Int, 0 ≤ r ∧ r < s.reg rs3 ∧
      s.reg rs3 ∣ s.reg rs1 * s.reg rs2 - r ∧
      exec (.bmodmul rd rs1 rs2 rs3) s = .next (({ s with
        regs := s.regs.set rd r, res0 := 0, res1 := 0 } : State).ended 0))

/-- R302: BMODEXP by square-and-multiply gives `base^e mod m`, the residue in `[0, m-1]`; the errors in
order. -/
def Obligations.BmodexpIsTheModularPower : Prop :=
  ∀ (s : State) (rd rs1 rs2 rs3 : Reg), (s.reg rs3).natAbs < 2 ^ 8192 →
    (s.reg rs3 = 0 → exec (.bmodexp rd rs1 rs2 rs3) s = .next (s.ended 2)) ∧
    (s.reg rs3 < 0 → exec (.bmodexp rd rs1 rs2 rs3) s = .next (s.ended 12)) ∧
    (0 < s.reg rs3 → s.reg rs2 < 0 →
      exec (.bmodexp rd rs1 rs2 rs3) s = .next (s.ended 12)) ∧
    (0 < s.reg rs3 → 0 ≤ s.reg rs2 →
      exec (.bmodexp rd rs1 rs2 rs3) s = .next (({ s with
        regs := s.regs.set rd (s.reg rs1 ^ (s.reg rs2).toNat % s.reg rs3), res0 := 0, res1 := 0 }
          : State).ended 0))

/-- R303: BGCD of registers in range writes the greatest common divisor of the magnitudes. -/
def Obligations.BgcdIsTheGcd : Prop :=
  ∀ (s : State) (rd rs1 rs2 : Reg), (s.reg rs1).natAbs < 2 ^ 8192 →
    (s.reg rs2).natAbs < 2 ^ 8192 →
    exec (.bgcd rd rs1 rs2) s = .next (({ s with
      regs := s.regs.set rd ((s.reg rs1).gcd (s.reg rs2) : Int), res0 := 0, res1 := 0 }
        : State).ended 0)

/-- BEXTGCD of registers in range (R304) completes with the gcd and exactly the coefficients of the rule's
recurrence: `r`, `u` and `v` are the successive values of `r0`, `s0` and `t0`, and `m` the number of times
the loop runs. They are Bézout coefficients bounded by the operands, so that CapacityExceeded cannot
occur; where one operand is 0 they are the coefficients the rule lists. -/
def Obligations.BextgcdGivesBezoutCoefficients : Prop :=
  ∀ (s : State) (rd rd2 rd3 rs1 rs2 : Reg), rd ≠ rd2 → rd ≠ rd3 → rd2 ≠ rd3 →
    (s.reg rs1).natAbs < 2 ^ 8192 → (s.reg rs2).natAbs < 2 ^ 8192 →
    let a := s.reg rs1
    let b := s.reg rs2
    ∃ (m : Nat) (r u v : Nat → Int),
      r 0 = |a| ∧ r 1 = |b| ∧ u 0 = 1 ∧ u 1 = 0 ∧ v 0 = 0 ∧ v 1 = 1 ∧
      (∀ j < m, r (j + 1) ≠ 0 ∧
        r (j + 2) = r j - r j / r (j + 1) * r (j + 1) ∧
        u (j + 2) = u j - r j / r (j + 1) * u (j + 1) ∧
        v (j + 2) = v j - r j / r (j + 1) * v (j + 1)) ∧
      r (m + 1) = 0 ∧
      let x := (if a < 0 then -1 else 1) * u m
      let y := (if b < 0 then -1 else 1) * v m
      r m = (a.gcd b : Int) ∧ a * x + b * y = r m ∧ |x| ≤ max 1 |b| ∧ |y| ≤ max 1 |a| ∧
      (b = 0 → x = (if a < 0 then -1 else 1) ∧ y = 0) ∧
      (a = 0 → b ≠ 0 → x = 0 ∧ y = (if b < 0 then -1 else 1)) ∧
      exec (.bextgcd rd rd2 rd3 rs1 rs2) s = .next (({ s with
        regs := ((s.regs.set rd (r m)).set rd2 x).set rd3 y
        res0 := 0, res1 := 0 } : State).ended 0)

/-- R305: BMODINV writes the inverse in `[0, m-1]` of a value coprime to the modulus, and reports
NoInverse otherwise; the errors in order. -/
def Obligations.BmodinvInvertsOrReportsNoInverse : Prop :=
  ∀ (s : State) (rd rs1 rs2 : Reg), (s.reg rs2).natAbs < 2 ^ 8192 →
    (s.reg rs2 = 0 → exec (.bmodinv rd rs1 rs2) s = .next (s.ended 2)) ∧
    (s.reg rs2 < 0 → exec (.bmodinv rd rs1 rs2) s = .next (s.ended 12)) ∧
    (0 < s.reg rs2 → (s.reg rs1).gcd (s.reg rs2) ≠ 1 →
      exec (.bmodinv rd rs1 rs2) s = .next (s.ended 3)) ∧
    (0 < s.reg rs2 → (s.reg rs1).gcd (s.reg rs2) = 1 → ∃ x : Int, 0 ≤ x ∧ x < s.reg rs2 ∧
      s.reg rs1 * x % s.reg rs2 = 1 % s.reg rs2 ∧
      exec (.bmodinv rd rs1 rs2) s = .next (({ s with
        regs := s.regs.set rd x, res0 := 0, res1 := 0 } : State).ended 0))

/-- R306: QRTEST by Euler's criterion, for prime and composite `p` alike, so that for an odd prime the
result is the Legendre symbol; no register is written. -/
def Obligations.QrtestFollowsEulersCriterion : Prop :=
  (∀ (s : State) (rs1 rs2 : Reg),
    let p := s.reg rs2
    let x := s.reg rs1 % p
    let e := x ^ ((p - 1) / 2).toNat % p
    let answer : Word → Host.Outcome State Fault Refusal := fun c =>
      .next (({ s with res0 := c, res1 := 0 } : State).ended 0)
    (p < 3 ∨ p % 2 = 0 → exec (.qrtest rs1 rs2) s = .next (s.ended 12)) ∧
    (3 ≤ p → p % 2 = 1 → exec (.qrtest rs1 rs2) s =
      if x = 0 then answer 0
      else if e = 1 then answer 1
      else if e = p - 1 then answer 0xFFFFFFFFFFFFFFFF
      else .next (s.ended 8))) ∧
  (∀ (s : State) (rs1 rs2 : Reg) (p : Nat) [Fact p.Prime], p ≠ 2 → s.reg rs2 = (p : Int) →
    exec (.qrtest rs1 rs2) s = .next (({ s with
      res0 := BitVec.ofInt 64 (legendreSym p (s.reg rs1)), res1 := 0 } : State).ended 0))

/-- SQRTMOD. R308: for an odd prime `p` in range, with `p ≡ 3 mod 4` or a non-residue up to SQRT_Z_MAX, it
completes: with a root, RES0 = 1 and the path of R307 for a residue, and with 0, RES0 = 0, RES1 = 0 for a
non-residue; FunctionFailed cannot arise. A `p` below 3 or even is DomainError. R307: for every odd `p` in
range, prime or composite, the root returned is the one the algorithm fixes: 0 for `x = 0`,
`x^((p+1)/4) mod p` on the fast path, and otherwise the last `R` of the Tonelli–Shanks loop, started from
the least non-residue `z` (`M`, `c`, `t` and `R` are the loop's successive values and `m` the number of
times it runs); FunctionFailed arises exactly where the rule raises it. A reported root has passed the
final check. -/
def Obligations.SqrtmodFindsRootsModuloPrimes : Prop :=
  (∀ (s : State) (rd rs1 rs2 : Reg) (p : Nat) [Fact p.Prime], p ≠ 2 → p < 2 ^ 8192 →
    s.reg rs2 = (p : Int) →
    (p % 4 = 3 ∨ ∃ z : Nat, z ≤ 65536 ∧ z < p ∧ ¬ IsSquare (z : ZMod p)) →
    (¬ IsSquare ((s.reg rs1 : Int) : ZMod p) →
      exec (.sqrtmod rd rs1 rs2) s = .next (({ s with
        regs := s.regs.set rd 0, res0 := 0, res1 := 0 } : State).ended 0)) ∧
    (IsSquare ((s.reg rs1 : Int) : ZMod p) → ∃ r : Int, 0 ≤ r ∧ r < p ∧
      r * r % p = s.reg rs1 % p ∧
      exec (.sqrtmod rd rs1 rs2) s = .next (({ s with
        regs := s.regs.set rd r, res0 := 1
        res1 := if s.reg rs1 % p = 0 then 0 else if p % 4 = 3 then 1 else 2 } : State).ended 0))) ∧
  (∀ (s : State) (rd rs1 rs2 : Reg), s.reg rs2 < 3 ∨ s.reg rs2 % 2 = 0 →
    exec (.sqrtmod rd rs1 rs2) s = .next (s.ended 12)) ∧
  (∀ (s : State) (rd rs1 rs2 : Reg),
    let p := s.reg rs2
    let x := s.reg rs1 % p
    let half := ((p - 1) / 2).toNat
    let e := x ^ half % p
    let done : Int → Word → Word → Host.Outcome State Fault Refusal := fun r found path =>
      .next (({ s with regs := s.regs.set rd r, res0 := found, res1 := path } : State).ended 0)
    let checked : Int → Word → Host.Outcome State Fault Refusal := fun r path =>
      if r * r % p = x then done r 1 path else .next (s.ended 8)
    let leastNonResidue : Nat → Prop := fun z => 2 ≤ z ∧ z ≤ 65536 ∧ (z : Int) < p ∧
      (z : Int) ^ half % p = p - 1 ∧ ∀ y : Nat, 2 ≤ y → y < z → (y : Int) ^ half % p = 1
    3 ≤ p → p % 2 = 1 → p.natAbs < 2 ^ 8192 →
    (x = 0 → exec (.sqrtmod rd rs1 rs2) s = done 0 1 0) ∧
    (x ≠ 0 → e = p - 1 → exec (.sqrtmod rd rs1 rs2) s = done 0 0 0) ∧
    (x ≠ 0 → e ≠ p - 1 → e ≠ 1 → exec (.sqrtmod rd rs1 rs2) s = .next (s.ended 8)) ∧
    (x ≠ 0 → e = 1 → p % 4 = 3 →
      exec (.sqrtmod rd rs1 rs2) s = checked (x ^ ((p + 1) / 4).toNat % p) 1) ∧
    (x ≠ 0 → e = 1 → p % 4 = 1 → (∀ z, ¬ leastNonResidue z) →
      exec (.sqrtmod rd rs1 rs2) s = .next (s.ended 8)) ∧
    (∀ z, x ≠ 0 → e = 1 → p % 4 = 1 → leastNonResidue z →
      ∃ (Q S m : Nat) (M : Nat → Nat) (c t R : Nat → Int),
        p - 1 = (Q : Int) * 2 ^ S ∧ Q % 2 = 1 ∧ M 0 = S ∧ c 0 = (z : Int) ^ Q % p ∧
        t 0 = x ^ Q % p ∧ R 0 = x ^ ((Q + 1) / 2) % p ∧
        (∀ j < m, t j ≠ 1 ∧ ∃ i, 1 ≤ i ∧ i < M j ∧ t j ^ (2 ^ i) % p = 1 ∧
          (∀ h, 1 ≤ h → h < i → t j ^ (2 ^ h) % p ≠ 1) ∧
          let bb := c j ^ (2 ^ (M j - i - 1)) % p
          M (j + 1) = i ∧ c (j + 1) = bb * bb % p ∧ t (j + 1) = t j * c (j + 1) % p ∧
          R (j + 1) = R j * bb % p) ∧
        ((t m = 1 ∧ exec (.sqrtmod rd rs1 rs2) s = checked (R m) 2) ∨
          (t m ≠ 1 ∧ (∀ i, 1 ≤ i → i < M m → t m ^ (2 ^ i) % p ≠ 1) ∧
            exec (.sqrtmod rd rs1 rs2) s = .next (s.ended 8))))) ∧
  (∀ (s t : State) (rd rs1 rs2 : Reg), exec (.sqrtmod rd rs1 rs2) s = .next t → t.errcode = 0 →
    (t.res0 = 1 ∧ t.reg rd * t.reg rd % s.reg rs2 = s.reg rs1 % s.reg rs2) ∨
    (t.res0 = 0 ∧ t.res1 = 0 ∧ t.reg rd = 0))

/-! ## Random generation and primality -/

/-- The draws of R60 stay in their stated ranges and reach every value of them. -/
def Obligations.DrawsCoverExactlyTheirRange : Prop :=
  (∀ lo hi : Int, lo ≤ hi →
    (∀ r, lo ≤ uniformOf r lo hi ∧ uniformOf r lo hi ≤ hi) ∧
    (∀ v, lo ≤ v → v ≤ hi → ∃ r, uniformOf r lo hi = v)) ∧
  (∀ n : Nat, (∀ r, (bytesOf r n).length = n) ∧
    (∀ bytes : List Byte, bytes.length = n → ∃ r, bytesOf r n = bytes)) ∧
  (∀ n : Nat, (∀ r, (nonzeroBytesOf r n).length = n ∧ ∀ b ∈ nonzeroBytesOf r n, b ≠ 0) ∧
    (∀ bytes : List Byte, bytes.length = n → (∀ b ∈ bytes, b ≠ 0) →
      ∃ r, nonzeroBytesOf r n = bytes))

/-- RANDBITS (42_random_prime.md section 1): its errors in order, its values without a draw, and its value
or FunctionFailed for the draw taken: bit `n-1` forced set, bit 0 too if `odd`. How the draw is read from
the supply (`d = r mod 2^(n-1)`) and the count of draws are the model's (log 2). -/
def Obligations.RandbitsForcesTheBitLength : Prop :=
  ∀ (s : State) (rd : Reg) (odd : Bool) (imm : BitVec 32),
    let n := imm.toNat
    let written : Int → Nat → State := fun v used => ({ s with
      regs := s.regs.set rd v, res0 := 0, res1 := 0, draws := s.draws + used } : State).ended 0
    (n = 0 → odd = true → exec (.randbits rd odd imm) s = .next (s.ended 12)) ∧
    (8192 < n → exec (.randbits rd odd imm) s = .next (s.ended 9)) ∧
    (n = 0 → odd = false → exec (.randbits rd odd imm) s = .next (written 0 0)) ∧
    (n = 1 → exec (.randbits rd odd imm) s = .next (written 1 0)) ∧
    (2 ≤ n → n ≤ 8192 → exec (.randbits rd odd imm) s = .next (
      match Config.source s.draws with
      | none => ({ s with draws := s.draws + 1 } : State).ended 8
      | some r =>
        let v := 2 ^ (n - 1) + r % 2 ^ (n - 1)
        written ((if odd then v ||| 1 else v : Nat) : Int) 1))

/-- RANDRANGE of registers in range (42_random_prime.md section 1): DomainError for `min > max`, else one
draw, whose value in `[min, max]` is written, or FunctionFailed. How the draw is read from the supply and
the count of draws are the model's (log 2). -/
def Obligations.RandrangeDrawsFromItsInterval : Prop :=
  ∀ (s : State) (rd rs1 rs2 : Reg), (s.reg rs1).natAbs < 2 ^ 8192 →
    (s.reg rs2).natAbs < 2 ^ 8192 →
    (s.reg rs2 < s.reg rs1 → exec (.randrange rd rs1 rs2) s = .next (s.ended 12)) ∧
    (s.reg rs1 ≤ s.reg rs2 → exec (.randrange rd rs1 rs2) s = .next (
      match Config.source s.draws with
      | none => ({ s with draws := s.draws + 1 } : State).ended 8
      | some r => ({ s with
          regs := s.regs.set rd (s.reg rs1 + (r : Int) % (s.reg rs2 - s.reg rs1 + 1))
          res0 := 0, res1 := 0, draws := s.draws + 1 } : State).ended 0))

/-- RANDBYTES (42_random_prime.md section 1): AddressRange, nothing written for length 0 (without a draw,
log 14), else one draw, whose bytes are written to exactly its range, or FunctionFailed. With `nz` no
written byte is 0. How the bytes are read from the supply and the count of draws are the model's
(log 2). -/
def Obligations.RandbytesFillsItsRange : Prop :=
  ∀ (s : State) (nz : Bool), Memory.wf s.buf →
    let a := s.latched.arg0.toNat
    let n := s.latched.arg1.toNat
    (65536 < a + n → exec (.randbytes nz) s = .next (s.ended 10)) ∧
    (a + n ≤ 65536 → n = 0 → exec (.randbytes nz) s =
      .next (({ s with res0 := 0, res1 := 0 } : State).ended 0)) ∧
    (a + n ≤ 65536 → n ≠ 0 → ∃ t, exec (.randbytes nz) s = .next t ∧
      match Config.source s.draws with
      | none => t = ({ s with draws := s.draws + 1 } : State).ended 8
      | some r =>
        t = ({ s with
          buf := t.buf, res0 := 0, res1 := 0, draws := s.draws + 1 } : State).ended 0 ∧
        ∀ x, memGet t.buf x = if a ≤ x ∧ x < a + n
          then some (if nz then BitVec.ofNat 8 (1 + r / 255 ^ (x - a) % 255)
            else BitVec.ofNat 8 (r / 256 ^ (x - a)))
          else memGet s.buf x)

/-- MRTEST (42_random_prime.md section 2; the supply and the count of draws are the model's, log 2). With no
draw: below 2 composite, 2 and 3 prime, even composite, and with `td` trial
division by every odd prime below 1000. Elsewhere the verdict is over the draws, for every supply of
draws: `k` of them are taken, and it is 1 exactly if none is a witness; a failed draw is FunctionFailed.
MRTEST answers that verdict for the supply `Config.source`. -/
def Obligations.MrtestDecidesOverAllDraws : Prop :=
  (∀ (s : State) (rs1 : Reg) (td : Bool) (k : BitVec 32),
    let n := s.reg rs1
    let verdict : Word → Host.Outcome State Fault Refusal := fun v =>
      .next (({ s with res0 := v, res1 := 0 } : State).ended 0)
    (n < 2 → exec (.mrtest rs1 td k) s = verdict 0) ∧
    (n = 2 ∨ n = 3 → exec (.mrtest rs1 td k) s = verdict 1) ∧
    (2 < n → n % 2 = 0 → exec (.mrtest rs1 td k) s = verdict 0) ∧
    (∀ q : Nat, 3 < n → n % 2 = 1 → td = true → q.Prime → 3 ≤ q → q < 1000 → n % q = 0 →
      exec (.mrtest rs1 td k) s = verdict (if n = q then 1 else 0))) ∧
  (∀ (src : Nat → Option Nat) (i k d e : Nat) (n : Int) (td : Bool) (r : Nat → Nat),
    3 < n → n % 2 = 1 → (td = true → ∀ q : Nat, q.Prime → 3 ≤ q → q < 1000 → n % q ≠ 0) →
    n - 1 = (d : Int) * 2 ^ e → d % 2 = 1 →
    ((∀ j < k, src (i + j) = some (r j)) →
      ∃ v : Bool, millerRabin src i n k td = (.ok v, k) ∧
        (v = true ↔ ∀ j < k,
          let a := 2 + (r j : Int) % (n - 3)
          a ^ d % n = 1 ∨ ∃ h < e, a ^ (d * 2 ^ h) % n = n - 1)) ∧
    ((∃ j < k, src (i + j) = none) →
      millerRabin src i n k td = (.error .functionFailed, k))) ∧
  (∀ (s : State) (rs1 : Reg) (td : Bool) (k : BitVec 32),
    let rounds := if k.toNat = 0 then 40 else k.toNat
    let m := millerRabin Config.source s.draws (s.reg rs1) rounds td
    exec (.mrtest rs1 td k) s = .next (
      match m.1 with
      | .ok v => ({ s with
          res0 := if v then 1 else 0, res1 := 0, draws := s.draws + m.2 } : State).ended 0
      | .error e => ({ s with draws := s.draws + m.2 } : State).ended e.code))

/-- A prime always gives 1, for every draw (42_random_prime.md section 2; the count of draws is the
model's, log 2): MRTEST of a prime completes with RES0 =
1, or with FunctionFailed where a draw failed. -/
def Obligations.MrtestPassesEveryPrime : Prop :=
  ∀ (s : State) (rs1 : Reg) (td : Bool) (k : BitVec 32) (p : Nat), p.Prime → s.reg rs1 = (p : Int) →
    ∃ used : Nat,
      exec (.mrtest rs1 td k) s =
        .next (({ s with res0 := 1, res1 := 0, draws := s.draws + used } : State).ended 0) ∨
      (exec (.mrtest rs1 td k) s = .next (({ s with draws := s.draws + used } : State).ended 8) ∧
        ∃ j < used, Config.source (s.draws + j) = none)

/-- PRIMEGEN (42_random_prime.md section 2; the supply and the count of draws are the model's, log 2): the
errors in order; otherwise candidate `j`, counted from 0, is formed from consultation `start j` of the
supply and tested with the draws up to `start (j + 1)`. The first candidate in draw order whose verdict
(R354, with trial division and the rounds given) is 1 is written, with its index `j + 1` in RES0: it has
exactly `n` bits, is odd and has no odd prime below 1000 as a proper factor. FunctionFailed arises only
where a consulted draw failed after refused candidates alone, or where all 2^20 candidates were refused.
`n = 2` yields 3 on attempt 1 whatever is drawn. -/
def Obligations.PrimegenAcceptsOnlyFittingCandidates : Prop :=
  ∀ (s : State) (rd : Reg) (bits rounds : BitVec 16),
    let n := bits.toNat
    let k := if rounds.toNat = 0 then 40 else rounds.toNat
    let candidate : Nat → Nat := fun i =>
      (2 ^ (n - 1) + (Config.source i).getD 0 % 2 ^ (n - 1)) ||| 1
    let test : Nat → Except ErrCode Bool × Nat := fun i =>
      millerRabin Config.source (i + 1) (candidate i : Int) k true
    let start : Nat → Nat := fun j => (fun i =>
      if Config.source i = none then i + 1 else i + 1 + (test i).2)^[j] s.draws
    let drawFailed : Nat → Prop := fun j =>
      ∃ h, start j ≤ h ∧ h < start (j + 1) ∧ Config.source h = none
    let refused : Nat → Prop := fun j => ¬ drawFailed j ∧ (test (start j)).1 = .ok false
    (n < 2 → exec (.primegen rd bits rounds) s = .next (s.ended 12)) ∧
    (8192 < n → exec (.primegen rd bits rounds) s = .next (s.ended 9)) ∧
    (2 ≤ n → n ≤ 8192 →
      (∃ j < 2 ^ 20, (∀ h < j, refused h) ∧ ¬ drawFailed j ∧ (test (start j)).1 = .ok true ∧
        let c := candidate (start j)
        2 ^ (n - 1) ≤ c ∧ c < 2 ^ n ∧ c % 2 = 1 ∧
        (∀ q : Nat, q.Prime → 3 ≤ q → q < 1000 → q ∣ c → q = c) ∧
        exec (.primegen rd bits rounds) s = .next (({ s with
          regs := s.regs.set rd (c : Int), res0 := BitVec.ofNat 64 (j + 1), res1 := 0
          draws := start (j + 1) } : State).ended 0)) ∨
      (∃ j < 2 ^ 20, (∀ h < j, refused h) ∧ drawFailed j ∧
        exec (.primegen rd bits rounds) s =
          .next (({ s with draws := start (j + 1) } : State).ended 8)) ∨
      ((∀ h < 2 ^ 20, refused h) ∧
        exec (.primegen rd bits rounds) s =
          .next (({ s with draws := start (2 ^ 20) } : State).ended 8))) ∧
    (n = 2 → exec (.primegen rd bits rounds) s = .next (
      match Config.source s.draws with
      | none => ({ s with draws := s.draws + 1 } : State).ended 8
      | some _ => ({ s with
          regs := s.regs.set rd 3, res0 := 1, res1 := 0, draws := s.draws + 1 } : State).ended 0))

/-! ## AES -/

/-- For every key and block, `AES_D(key, AES_E(key, in)) = in`, and the other way round (last sentence of
R412). -/
def Obligations.AesDecryptionInvertsEncryption : Prop :=
  ∀ (key : List Byte) (b : Block), aesD key (aesE key b) = b ∧ aesE key (aesD key b) = b

/-- R420: AESBLK: the errors in order; else the sixteen bytes of the transformed block stand at the
destination, read as they were before, and every other byte reads as before. -/
def Obligations.AesblkTransformsOneBlock : Prop :=
  ∀ (s : State) (dec : Bool) (imm : BitVec 32), Memory.wf s.buf →
    let L := imm.toNat
    let src := s.latched.arg0.toNat
    let dst := s.latched.arg2.toNat
    let ka := s.latched.arg4.toNat
    let lenOk := L = 16 ∨ L = 24 ∨ L = 32
    let rangesOk := ka + L ≤ 65536 ∧ src + 16 ≤ 65536 ∧ dst + 16 ≤ 65536
    (¬ lenOk → exec (.aesblk dec imm) s = .next (s.ended 4)) ∧
    (lenOk → ¬ rangesOk → exec (.aesblk dec imm) s = .next (s.ended 10)) ∧
    (∀ key input : List Byte, lenOk → rangesOk → key.length = L → input.length = 16 →
      s.Holds ka key → s.Holds src input →
      ∃ t, exec (.aesblk dec imm) s = .next t ∧
        t = ({ s with buf := t.buf, res0 := 0, res1 := 0 } : State).ended 0 ∧
        ∀ x, memGet t.buf x = if dst ≤ x ∧ x < dst + 16
          then (if dec then aesD key (Block.ofBytes input)
            else aesE key (Block.ofBytes input)).toBytes[x - dst]?
          else memGet s.buf x)

/-- A chunk decrypts back, in every mode, for every key and feedback (R454, R458): the ciphertext has the
padded length, decryption gives the padded chunk and the same new feedback, and the last byte of the
padded chunk is its pad length (R452, R453). -/
def Obligations.ChunksDecryptBack : Prop :=
  ∀ (mode : Mode) (key : List Byte) (fb : Block) (p : List Byte),
    (encryptChunk mode key fb p).1.length = 16 * (p.length / 16 + 1) ∧
    decryptChunk mode key fb (encryptChunk mode key fb p).1 =
      (pad p, (encryptChunk mode key fb p).2) ∧
    padByte (pad p) = some (16 - p.length % 16) ∧
    (pad p).take ((pad p).length - (16 - p.length % 16)) = p

/-- AESENCS (44_aes_modes.md section 2; how the IV is read from the supply and the count of draws are the
model's, log 2): the errors in order; else the ciphertext, followed in every mode but ECB by the drawn
IV, stands at the destination, the context holds the new stream, RES0 is the number of bytes written and
RES1 the pad length; a failed draw is FunctionFailed. -/
def Obligations.AesencsStartsAnEncryptedStream : Prop :=
  ∀ (s : State) (k : CtxIx) (mode : Mode) (imm : BitVec 32), Memory.wf s.buf →
    let KL := imm.toNat
    let src := s.latched.arg0.toNat
    let L := s.latched.arg1.toNat
    let dst := s.latched.arg2.toNat
    let cap := s.latched.arg3.toNat
    let ka := s.latched.arg4.toNat
    let iv := if mode = .ecb then 0 else 16
    let lenOk := KL = 16 ∨ KL = 24 ∨ KL = 32
    let rangesOk := src + L ≤ 65536 ∧ dst + cap ≤ 65536 ∧ ka + KL ≤ 65536
    let out := 16 * (L / 16 + 1) + iv
    let started : List Byte → List Byte → Block → List Byte → State → Nat → Prop :=
      fun key p fb0 ivBytes t used =>
        t = ({ s with
          buf := t.buf
          ctxs := s.ctxs.set k ⟨true, .enc, mode, KL, Vector.ofFn fun i => key.getD i 0,
            (encryptChunk mode key fb0 p).2⟩
          res0 := BitVec.ofNat 64 out, res1 := BitVec.ofNat 64 (16 - L % 16)
          draws := s.draws + used } : State).ended 0 ∧
        ∀ x, memGet t.buf x = if dst ≤ x ∧ x < dst + out
          then ((encryptChunk mode key fb0 p).1 ++ ivBytes)[x - dst]? else memGet s.buf x
    (¬ lenOk → exec (.aesencs k mode imm) s = .next (s.ended 4)) ∧
    (lenOk → ¬ rangesOk → exec (.aesencs k mode imm) s = .next (s.ended 10)) ∧
    (lenOk → rangesOk → L = 0 → exec (.aesencs k mode imm) s = .next (s.ended 6)) ∧
    (lenOk → rangesOk → L ≠ 0 → cap < out → exec (.aesencs k mode imm) s = .next (s.ended 5)) ∧
    (∀ key p : List Byte, lenOk → rangesOk → L ≠ 0 → out ≤ cap → key.length = KL → p.length = L →
      s.Holds ka key → s.Holds src p → ∃ t, exec (.aesencs k mode imm) s = .next t ∧
        (mode = .ecb → started key p .zero [] t 0) ∧
        (mode ≠ .ecb →
          match Config.source s.draws with
          | none => t = ({ s with draws := s.draws + 1 } : State).ended 8
          | some r => started key p (Block.ofBytes (bytesOf r 16)) (bytesOf r 16) t 1))

/-- R461: AESENCC: the errors in order; else the chunk's ciphertext stands at the destination and only the
context's feedback changes. -/
def Obligations.AesenccContinuesTheStream : Prop :=
  ∀ (s : State) (k : CtxIx), Memory.wf s.buf →
    let c := s.ctx k
    let src := s.latched.arg0.toNat
    let L := s.latched.arg1.toNat
    let dst := s.latched.arg2.toNat
    let cap := s.latched.arg3.toNat
    let open_ := c.active = true ∧ c.dir = .enc
    let rangesOk := src + L ≤ 65536 ∧ dst + cap ≤ 65536
    let out := 16 * (L / 16 + 1)
    let key := c.key.toList.take c.keylen
    (¬ open_ → exec (.aesencc k) s = .next (s.ended 11)) ∧
    (open_ → ¬ rangesOk → exec (.aesencc k) s = .next (s.ended 10)) ∧
    (open_ → rangesOk → L = 0 → exec (.aesencc k) s = .next (s.ended 6)) ∧
    (open_ → rangesOk → L ≠ 0 → cap < out → exec (.aesencc k) s = .next (s.ended 5)) ∧
    (∀ p : List Byte, open_ → rangesOk → L ≠ 0 → out ≤ cap → p.length = L → s.Holds src p →
      ∃ t, exec (.aesencc k) s = .next t ∧
        t = ({ s with
          buf := t.buf, ctxs := s.ctxs.set k { c with fb := (encryptChunk c.mode key c.fb p).2 }
          res0 := BitVec.ofNat 64 out, res1 := BitVec.ofNat 64 (16 - L % 16) } : State).ended 0 ∧
        ∀ x, memGet t.buf x = if dst ≤ x ∧ x < dst + out
          then (encryptChunk c.mode key c.fb p).1[x - dst]? else memGet s.buf x)

/-- R462: AESDECS: the errors in order; else, with `q` the decrypted string and `n` its last byte, the
first `|q| - n` bytes stand at the destination and the context holds the new stream. -/
def Obligations.AesdecsStartsADecryptedStream : Prop :=
  ∀ (s : State) (k : CtxIx) (mode : Mode) (imm : BitVec 32), Memory.wf s.buf →
    let KL := imm.toNat
    let src := s.latched.arg0.toNat
    let L := s.latched.arg1.toNat
    let dst := s.latched.arg2.toNat
    let cap := s.latched.arg3.toNat
    let ka := s.latched.arg4.toNat
    let iv := if mode = .ecb then 0 else 16
    let lenOk := KL = 16 ∨ KL = 24 ∨ KL = 32
    let rangesOk := src + L ≤ 65536 ∧ dst + cap ≤ 65536 ∧ ka + KL ≤ 65536
    let inputOk := L % 16 = 0 ∧ 16 + iv ≤ L
    (¬ lenOk → exec (.aesdecs k mode imm) s = .next (s.ended 4)) ∧
    (lenOk → ¬ rangesOk → exec (.aesdecs k mode imm) s = .next (s.ended 10)) ∧
    (lenOk → rangesOk → L = 0 → exec (.aesdecs k mode imm) s = .next (s.ended 6)) ∧
    (lenOk → rangesOk → L ≠ 0 → ¬ inputOk → exec (.aesdecs k mode imm) s = .next (s.ended 7)) ∧
    (∀ key x : List Byte, lenOk → rangesOk → L ≠ 0 → inputOk → key.length = KL → x.length = L →
      s.Holds ka key → s.Holds src x →
      let fb0 := if mode = .ecb then Block.zero else Block.ofBytes (x.drop (L - 16))
      let q := (decryptChunk mode key fb0 (x.take (L - iv))).1
      let n := (q.getLastD 0).toNat
      (n < 1 ∨ 16 < n → exec (.aesdecs k mode imm) s = .next (s.ended 7)) ∧
      (1 ≤ n → n ≤ 16 → cap < q.length - n → exec (.aesdecs k mode imm) s = .next (s.ended 5)) ∧
      (1 ≤ n → n ≤ 16 → q.length - n ≤ cap → q.length = L - iv ∧
        ∃ t, exec (.aesdecs k mode imm) s = .next t ∧
          t = ({ s with
            buf := t.buf
            ctxs := s.ctxs.set k ⟨true, .dec, mode, KL, Vector.ofFn fun i => key.getD i 0,
              (decryptChunk mode key fb0 (x.take (L - iv))).2⟩
            res0 := BitVec.ofNat 64 (q.length - n), res1 := BitVec.ofNat 64 n } : State).ended 0 ∧
          ∀ a, memGet t.buf a = if dst ≤ a ∧ a < dst + (q.length - n)
            then q[a - dst]? else memGet s.buf a))

/-- R463: AESDECC: the errors in order; else the unpadded bytes stand at the destination and only the
context's feedback changes. -/
def Obligations.AesdeccContinuesTheStream : Prop :=
  ∀ (s : State) (k : CtxIx), Memory.wf s.buf →
    let c := s.ctx k
    let src := s.latched.arg0.toNat
    let L := s.latched.arg1.toNat
    let dst := s.latched.arg2.toNat
    let cap := s.latched.arg3.toNat
    let open_ := c.active = true ∧ c.dir = .dec
    let rangesOk := src + L ≤ 65536 ∧ dst + cap ≤ 65536
    let key := c.key.toList.take c.keylen
    (¬ open_ → exec (.aesdecc k) s = .next (s.ended 11)) ∧
    (open_ → ¬ rangesOk → exec (.aesdecc k) s = .next (s.ended 10)) ∧
    (open_ → rangesOk → L = 0 → exec (.aesdecc k) s = .next (s.ended 6)) ∧
    (open_ → rangesOk → L % 16 ≠ 0 → exec (.aesdecc k) s = .next (s.ended 7)) ∧
    (∀ x : List Byte, open_ → rangesOk → L ≠ 0 → L % 16 = 0 → x.length = L → s.Holds src x →
      let q := (decryptChunk c.mode key c.fb x).1
      let n := (q.getLastD 0).toNat
      (n < 1 ∨ 16 < n → exec (.aesdecc k) s = .next (s.ended 7)) ∧
      (1 ≤ n → n ≤ 16 → cap < q.length - n → exec (.aesdecc k) s = .next (s.ended 5)) ∧
      (1 ≤ n → n ≤ 16 → q.length - n ≤ cap → q.length = L ∧
        ∃ t, exec (.aesdecc k) s = .next t ∧
          t = ({ s with
            buf := t.buf, ctxs := s.ctxs.set k { c with fb := (decryptChunk c.mode key c.fb x).2 }
            res0 := BitVec.ofNat 64 (q.length - n), res1 := BitVec.ofNat 64 n } : State).ended 0 ∧
          ∀ a, memGet t.buf a = if dst ≤ a ∧ a < dst + (q.length - n)
            then q[a - dst]? else memGet s.buf a))

/-- The stream round trip of R459 at the commands, one Start: what AESENCS writes, AESDECS with the same
key and mode on any context turns back into the plaintext, with the same feedback left, where the key is
still in the buffer. -/
def Obligations.StartRoundTripsThroughTheBuffer : Prop :=
  ∀ (s t : State) (k k' : CtxIx) (mode : Mode) (imm : BitVec 32) (w : Word) (d : Word)
    (p : List Byte), Memory.wf s.buf → p.length = s.latched.arg1.toNat →
    s.Holds s.latched.arg0.toNat p →
    exec (.aesencs k mode imm) s = .next t → t.errcode = 0 →
    (s.latched.arg4.toNat + imm.toNat ≤ s.latched.arg2.toNat ∨
      s.latched.arg2.toNat + t.res0.toNat ≤ s.latched.arg4.toNat) →
    d.toNat + t.res0.toNat ≤ 65536 →
    ∃ u, exec (.aesdecs k' mode imm)
        { t with seq := .busy w ⟨s.latched.arg2, t.res0, d, t.res0, s.latched.arg4⟩ } = .next u ∧
      u.errcode = 0 ∧ u.res0 = s.latched.arg1 ∧ u.Holds d.toNat p ∧
      (u.ctx k').fb = (t.ctx k).fb ∧ (u.ctx k').key = (t.ctx k).key

/-- The stream round trip of R459 at the commands, one Continue: what AESENCC writes, AESDECC on a context
with the same mode, key and feedback turns back into the chunk, and the two feedbacks agree again. -/
def Obligations.ContinueRoundTripsThroughTheBuffer : Prop :=
  ∀ (s t : State) (k k' : CtxIx) (w : Word) (d : Word) (p : List Byte), Memory.wf s.buf →
    p.length = s.latched.arg1.toNat → s.Holds s.latched.arg0.toNat p →
    exec (.aesencc k) s = .next t → t.errcode = 0 → d.toNat + t.res0.toNat ≤ 65536 →
    ∃ u, exec (.aesdecc k')
        { t with
          ctxs := t.ctxs.set k' { s.ctx k with dir := .dec }
          seq := .busy w ⟨s.latched.arg2, t.res0, d, t.res0, 0⟩ } = .next u ∧
      u.errcode = 0 ∧ u.res0 = s.latched.arg1 ∧ u.Holds d.toNat p ∧
      (u.ctx k').fb = (t.ctx k).fb

/-- R464: AESCLR puts its context back to the reset value. A Continue on a context that is not active, as
every context is after either reset, ends in StreamNotStarted. -/
def Obligations.ClearedStreamsAreNotStarted : Prop :=
  (∀ (s : State) (k : CtxIx), exec (.aesclr k) s = .next (({ s with
    ctxs := s.ctxs.set k ⟨false, .enc, .ecb, 0, Vector.replicate 32 0, .zero⟩
    res0 := 0, res1 := 0 } : State).ended 0)) ∧
  (∀ (s : State) (k : CtxIx), (s.ctx k).active = false →
    exec (.aesencc k) s = .next (s.ended 11) ∧ exec (.aesdecc k) s = .next (s.ended 11)) ∧
  (∀ k : CtxIx, (State.reset.ctx k).active = false) ∧
  (∀ (s t : State) (v : Word) (k : CtxIx), v.getLsbD 1 = true →
    s.hostAccess (.write 0x010 8 v) = .next t → (t.ctx k).active = false)

/-- R465: AESLEN answers the padded length plus the IV for encryption, modulo 2^64, and the length less
the IV for decryption; for encryption that is RES0 of the matching AESENCS or AESENCC, and for decryption
a capacity with which the matching AESDECS or AESDECC never ends in BufferTooSmall. -/
def Obligations.AeslenSizesTheOutput : Prop :=
  (∀ (s : State) (mode : Mode) (first : Bool),
    let L := s.latched.arg0.toNat
    let iv := if first = true ∧ mode ≠ .ecb then 16 else 0
    exec (.aeslen mode .enc first) s = .next (({ s with
      res0 := BitVec.ofNat 64 (16 * (L / 16 + 1) + iv), res1 := 0 } : State).ended 0) ∧
    exec (.aeslen mode .dec first) s = .next (({ s with
      res0 := BitVec.ofNat 64 (L - iv), res1 := 0 } : State).ended 0)) ∧
  (∀ (s t u v : State) (k : CtxIx) (mode : Mode) (imm : BitVec 32) (first : Bool),
    v.latched.arg0 = s.latched.arg1 →
    exec (if first then .aesencs k mode imm else .aesencc k) s = .next t → t.errcode = 0 →
    exec (.aeslen mode .enc first) v = .next u → u.res0 = t.res0) ∧
  (∀ (s t u v : State) (k : CtxIx) (mode : Mode) (imm : BitVec 32) (first : Bool),
    v.latched.arg0 = s.latched.arg1 →
    exec (.aeslen mode .dec first) v = .next u → u.res0.toNat ≤ s.latched.arg3.toNat →
    exec (if first then .aesdecs k mode imm else .aesdecc k) s = .next t → t.errcode ≠ 5)
end

