-- ==== Sys2Proof/Laws/Decode.lean ====
section
/-! SUPPORT. The command word and its fields determine each other (R151, R158), and the opcode map has no
two rows of one code (R157). -/

namespace Sys2Proof

@[simp] theorem ofWord_toWord (f : Fields) : Fields.ofWord f.toWord = f := by
  obtain ⟨opc, rd, rs1, rs2, rs3, rd2, fl, imm⟩ := f
  simp only [Fields.ofWord, Fields.toWord, Fields.mk.injEq]
  refine ⟨?_, ?_, ?_, ?_, ?_, ?_, ?_, ?_⟩ <;>
  · ext i hi
    simp only [BitVec.getElem_extractLsb', BitVec.getLsbD_append]
    repeat' split
    all_goals first
      | omega
      | (rw [← BitVec.getLsbD_eq_getElem]; congr 1; omega)

@[simp] theorem toWord_ofWord (w : Word) : (Fields.ofWord w).toWord = w := by
  ext i hi
  simp only [Fields.ofWord, Fields.toWord, ← BitVec.getLsbD_eq_getElem, BitVec.getLsbD_append,
    BitVec.getLsbD_extractLsb']
  repeat' split
  all_goals
    rw [decide_eq_true (by omega), Bool.true_and]
    congr 1
    omega

/-- Reading a row's code gives the row (R157). -/
@[simp] theorem ofCode_code (op : Op) : Op.ofCode op.code = some op := by
  cases op <;> rfl

/-- A code names at most one row (R157). -/
theorem code_of_ofCode {c : BitVec 8} {op : Op} (h : Op.ofCode c = some op) : op.code = c := by
  have := List.find?_some h
  simpa using this

theorem decode_toWord (f : Fields) : decode f.toWord = f.decode := by simp [decode]

end Sys2Proof
end

