-- ==== Sys2Proof/Laws/State.lean ====
section
/-! SUPPORT. The small lemmas of the state: for each update of Machine/Ops.lean and Machine/Bus.lean one
lemma per field, true by rfl, so that no proof unfolds a record update; and what reset holds. -/

namespace Sys2Proof.Machine

variable (s : State)

/-! ### setReg -/

@[simp] theorem State.setReg_regs (i : Reg) (v : Int) : (s.setReg i v).regs = s.regs.set i v := rfl
@[simp] theorem State.setReg_ctxs (i : Reg) (v : Int) : (s.setReg i v).ctxs = s.ctxs := rfl
@[simp] theorem State.setReg_buf (i : Reg) (v : Int) : (s.setReg i v).buf = s.buf := rfl
@[simp] theorem State.setReg_seq (i : Reg) (v : Int) : (s.setReg i v).seq = s.seq := rfl
@[simp] theorem State.setReg_irqEn (i : Reg) (v : Int) : (s.setReg i v).irqEn = s.irqEn := rfl
@[simp] theorem State.setReg_done (i : Reg) (v : Int) : (s.setReg i v).done = s.done := rfl
@[simp] theorem State.setReg_dropped (i : Reg) (v : Int) : (s.setReg i v).dropped = s.dropped := rfl
@[simp] theorem State.setReg_errcode (i : Reg) (v : Int) : (s.setReg i v).errcode = s.errcode := rfl
@[simp] theorem State.setReg_cmdLast (i : Reg) (v : Int) : (s.setReg i v).cmdLast = s.cmdLast := rfl
@[simp] theorem State.setReg_args (i : Reg) (v : Int) : (s.setReg i v).args = s.args := rfl
@[simp] theorem State.setReg_res0 (i : Reg) (v : Int) : (s.setReg i v).res0 = s.res0 := rfl
@[simp] theorem State.setReg_res1 (i : Reg) (v : Int) : (s.setReg i v).res1 = s.res1 := rfl
@[simp] theorem State.setReg_rst (i : Reg) (v : Int) : (s.setReg i v).rst = s.rst := rfl
@[simp] theorem State.setReg_events (i : Reg) (v : Int) : (s.setReg i v).events = s.events := rfl
@[simp] theorem State.setReg_resp (i : Reg) (v : Int) : (s.setReg i v).resp = s.resp := rfl
@[simp] theorem State.setReg_draws (i : Reg) (v : Int) : (s.setReg i v).draws = s.draws := rfl

/-! ### setCtx -/

@[simp] theorem State.setCtx_regs (k : CtxIx) (c : Ctx) : (s.setCtx k c).regs = s.regs := rfl
@[simp] theorem State.setCtx_ctxs (k : CtxIx) (c : Ctx) : (s.setCtx k c).ctxs = s.ctxs.set k c := rfl
@[simp] theorem State.setCtx_buf (k : CtxIx) (c : Ctx) : (s.setCtx k c).buf = s.buf := rfl
@[simp] theorem State.setCtx_seq (k : CtxIx) (c : Ctx) : (s.setCtx k c).seq = s.seq := rfl
@[simp] theorem State.setCtx_irqEn (k : CtxIx) (c : Ctx) : (s.setCtx k c).irqEn = s.irqEn := rfl
@[simp] theorem State.setCtx_done (k : CtxIx) (c : Ctx) : (s.setCtx k c).done = s.done := rfl
@[simp] theorem State.setCtx_dropped (k : CtxIx) (c : Ctx) : (s.setCtx k c).dropped = s.dropped := rfl
@[simp] theorem State.setCtx_errcode (k : CtxIx) (c : Ctx) : (s.setCtx k c).errcode = s.errcode := rfl
@[simp] theorem State.setCtx_cmdLast (k : CtxIx) (c : Ctx) : (s.setCtx k c).cmdLast = s.cmdLast := rfl
@[simp] theorem State.setCtx_args (k : CtxIx) (c : Ctx) : (s.setCtx k c).args = s.args := rfl
@[simp] theorem State.setCtx_res0 (k : CtxIx) (c : Ctx) : (s.setCtx k c).res0 = s.res0 := rfl
@[simp] theorem State.setCtx_res1 (k : CtxIx) (c : Ctx) : (s.setCtx k c).res1 = s.res1 := rfl
@[simp] theorem State.setCtx_rst (k : CtxIx) (c : Ctx) : (s.setCtx k c).rst = s.rst := rfl
@[simp] theorem State.setCtx_events (k : CtxIx) (c : Ctx) : (s.setCtx k c).events = s.events := rfl
@[simp] theorem State.setCtx_resp (k : CtxIx) (c : Ctx) : (s.setCtx k c).resp = s.resp := rfl
@[simp] theorem State.setCtx_draws (k : CtxIx) (c : Ctx) : (s.setCtx k c).draws = s.draws := rfl

/-! ### setRes -/

@[simp] theorem State.setRes_regs (r0 r1 : Word) : (s.setRes r0 r1).regs = s.regs := rfl
@[simp] theorem State.setRes_ctxs (r0 r1 : Word) : (s.setRes r0 r1).ctxs = s.ctxs := rfl
@[simp] theorem State.setRes_buf (r0 r1 : Word) : (s.setRes r0 r1).buf = s.buf := rfl
@[simp] theorem State.setRes_seq (r0 r1 : Word) : (s.setRes r0 r1).seq = s.seq := rfl
@[simp] theorem State.setRes_irqEn (r0 r1 : Word) : (s.setRes r0 r1).irqEn = s.irqEn := rfl
@[simp] theorem State.setRes_done (r0 r1 : Word) : (s.setRes r0 r1).done = s.done := rfl
@[simp] theorem State.setRes_dropped (r0 r1 : Word) : (s.setRes r0 r1).dropped = s.dropped := rfl
@[simp] theorem State.setRes_errcode (r0 r1 : Word) : (s.setRes r0 r1).errcode = s.errcode := rfl
@[simp] theorem State.setRes_cmdLast (r0 r1 : Word) : (s.setRes r0 r1).cmdLast = s.cmdLast := rfl
@[simp] theorem State.setRes_args (r0 r1 : Word) : (s.setRes r0 r1).args = s.args := rfl
@[simp] theorem State.setRes_res0 (r0 r1 : Word) : (s.setRes r0 r1).res0 = r0 := rfl
@[simp] theorem State.setRes_res1 (r0 r1 : Word) : (s.setRes r0 r1).res1 = r1 := rfl
@[simp] theorem State.setRes_rst (r0 r1 : Word) : (s.setRes r0 r1).rst = s.rst := rfl
@[simp] theorem State.setRes_events (r0 r1 : Word) : (s.setRes r0 r1).events = s.events := rfl
@[simp] theorem State.setRes_resp (r0 r1 : Word) : (s.setRes r0 r1).resp = s.resp := rfl
@[simp] theorem State.setRes_draws (r0 r1 : Word) : (s.setRes r0 r1).draws = s.draws := rfl

/-! ### write -/

@[simp] theorem State.write_regs (a : Nat) (bytes : List Byte) : (s.write a bytes).regs = s.regs := rfl
@[simp] theorem State.write_ctxs (a : Nat) (bytes : List Byte) : (s.write a bytes).ctxs = s.ctxs := rfl
@[simp] theorem State.write_buf (a : Nat) (bytes : List Byte) : (s.write a bytes).buf = memWrite s.buf a bytes := rfl
@[simp] theorem State.write_seq (a : Nat) (bytes : List Byte) : (s.write a bytes).seq = s.seq := rfl
@[simp] theorem State.write_irqEn (a : Nat) (bytes : List Byte) : (s.write a bytes).irqEn = s.irqEn := rfl
@[simp] theorem State.write_done (a : Nat) (bytes : List Byte) : (s.write a bytes).done = s.done := rfl
@[simp] theorem State.write_dropped (a : Nat) (bytes : List Byte) : (s.write a bytes).dropped = s.dropped := rfl
@[simp] theorem State.write_errcode (a : Nat) (bytes : List Byte) : (s.write a bytes).errcode = s.errcode := rfl
@[simp] theorem State.write_cmdLast (a : Nat) (bytes : List Byte) : (s.write a bytes).cmdLast = s.cmdLast := rfl
@[simp] theorem State.write_args (a : Nat) (bytes : List Byte) : (s.write a bytes).args = s.args := rfl
@[simp] theorem State.write_res0 (a : Nat) (bytes : List Byte) : (s.write a bytes).res0 = s.res0 := rfl
@[simp] theorem State.write_res1 (a : Nat) (bytes : List Byte) : (s.write a bytes).res1 = s.res1 := rfl
@[simp] theorem State.write_rst (a : Nat) (bytes : List Byte) : (s.write a bytes).rst = s.rst := rfl
@[simp] theorem State.write_events (a : Nat) (bytes : List Byte) : (s.write a bytes).events = s.events := rfl
@[simp] theorem State.write_resp (a : Nat) (bytes : List Byte) : (s.write a bytes).resp = s.resp := rfl
@[simp] theorem State.write_draws (a : Nat) (bytes : List Byte) : (s.write a bytes).draws = s.draws := rfl

/-! ### spend -/

@[simp] theorem State.spend_regs (n : Nat) : (s.spend n).regs = s.regs := rfl
@[simp] theorem State.spend_ctxs (n : Nat) : (s.spend n).ctxs = s.ctxs := rfl
@[simp] theorem State.spend_buf (n : Nat) : (s.spend n).buf = s.buf := rfl
@[simp] theorem State.spend_seq (n : Nat) : (s.spend n).seq = s.seq := rfl
@[simp] theorem State.spend_irqEn (n : Nat) : (s.spend n).irqEn = s.irqEn := rfl
@[simp] theorem State.spend_done (n : Nat) : (s.spend n).done = s.done := rfl
@[simp] theorem State.spend_dropped (n : Nat) : (s.spend n).dropped = s.dropped := rfl
@[simp] theorem State.spend_errcode (n : Nat) : (s.spend n).errcode = s.errcode := rfl
@[simp] theorem State.spend_cmdLast (n : Nat) : (s.spend n).cmdLast = s.cmdLast := rfl
@[simp] theorem State.spend_args (n : Nat) : (s.spend n).args = s.args := rfl
@[simp] theorem State.spend_res0 (n : Nat) : (s.spend n).res0 = s.res0 := rfl
@[simp] theorem State.spend_res1 (n : Nat) : (s.spend n).res1 = s.res1 := rfl
@[simp] theorem State.spend_rst (n : Nat) : (s.spend n).rst = s.rst := rfl
@[simp] theorem State.spend_events (n : Nat) : (s.spend n).events = s.events := rfl
@[simp] theorem State.spend_resp (n : Nat) : (s.spend n).resp = s.resp := rfl
@[simp] theorem State.spend_draws (n : Nat) : (s.spend n).draws = s.draws + n := rfl

/-! ### succeed -/

@[simp] theorem State.succeed_regs : s.succeed.regs = s.regs := rfl
@[simp] theorem State.succeed_ctxs : s.succeed.ctxs = s.ctxs := rfl
@[simp] theorem State.succeed_buf : s.succeed.buf = s.buf := rfl
@[simp] theorem State.succeed_seq : s.succeed.seq = .idle := rfl
@[simp] theorem State.succeed_irqEn : s.succeed.irqEn = s.irqEn := rfl
@[simp] theorem State.succeed_done : s.succeed.done = true := rfl
@[simp] theorem State.succeed_dropped : s.succeed.dropped = s.dropped := rfl
@[simp] theorem State.succeed_errcode : s.succeed.errcode = 0 := rfl
@[simp] theorem State.succeed_cmdLast : s.succeed.cmdLast = s.cmdLast := rfl
@[simp] theorem State.succeed_args : s.succeed.args = s.args := rfl
@[simp] theorem State.succeed_res0 : s.succeed.res0 = s.res0 := rfl
@[simp] theorem State.succeed_res1 : s.succeed.res1 = s.res1 := rfl
@[simp] theorem State.succeed_rst : s.succeed.rst = s.rst := rfl
@[simp] theorem State.succeed_events : s.succeed.events = s.events := rfl
@[simp] theorem State.succeed_resp : s.succeed.resp = s.resp := rfl
@[simp] theorem State.succeed_draws : s.succeed.draws = s.draws := rfl

/-! ### fail -/

@[simp] theorem State.fail_regs (e : ErrCode) : (s.fail e).regs = s.regs := rfl
@[simp] theorem State.fail_ctxs (e : ErrCode) : (s.fail e).ctxs = s.ctxs := rfl
@[simp] theorem State.fail_buf (e : ErrCode) : (s.fail e).buf = s.buf := rfl
@[simp] theorem State.fail_seq (e : ErrCode) : (s.fail e).seq = .idle := rfl
@[simp] theorem State.fail_irqEn (e : ErrCode) : (s.fail e).irqEn = s.irqEn := rfl
@[simp] theorem State.fail_done (e : ErrCode) : (s.fail e).done = true := rfl
@[simp] theorem State.fail_dropped (e : ErrCode) : (s.fail e).dropped = s.dropped := rfl
@[simp] theorem State.fail_errcode (e : ErrCode) : (s.fail e).errcode = e.code := rfl
@[simp] theorem State.fail_cmdLast (e : ErrCode) : (s.fail e).cmdLast = s.cmdLast := rfl
@[simp] theorem State.fail_args (e : ErrCode) : (s.fail e).args = s.args := rfl
@[simp] theorem State.fail_res0 (e : ErrCode) : (s.fail e).res0 = s.res0 := rfl
@[simp] theorem State.fail_res1 (e : ErrCode) : (s.fail e).res1 = s.res1 := rfl
@[simp] theorem State.fail_rst (e : ErrCode) : (s.fail e).rst = s.rst := rfl
@[simp] theorem State.fail_events (e : ErrCode) : (s.fail e).events = s.events := rfl
@[simp] theorem State.fail_resp (e : ErrCode) : (s.fail e).resp = s.resp := rfl
@[simp] theorem State.fail_draws (e : ErrCode) : (s.fail e).draws = s.draws := rfl

/-! ### launch -/

@[simp] theorem State.launch_regs (w : Word) : (s.launch w).regs = s.regs := rfl
@[simp] theorem State.launch_ctxs (w : Word) : (s.launch w).ctxs = s.ctxs := rfl
@[simp] theorem State.launch_buf (w : Word) : (s.launch w).buf = s.buf := rfl
@[simp] theorem State.launch_seq (w : Word) : (s.launch w).seq = .busy w s.args := rfl
@[simp] theorem State.launch_irqEn (w : Word) : (s.launch w).irqEn = s.irqEn := rfl
@[simp] theorem State.launch_done (w : Word) : (s.launch w).done = false := rfl
@[simp] theorem State.launch_dropped (w : Word) : (s.launch w).dropped = s.dropped := rfl
@[simp] theorem State.launch_errcode (w : Word) : (s.launch w).errcode = 0 := rfl
@[simp] theorem State.launch_cmdLast (w : Word) : (s.launch w).cmdLast = w := rfl
@[simp] theorem State.launch_args (w : Word) : (s.launch w).args = s.args := rfl
@[simp] theorem State.launch_res0 (w : Word) : (s.launch w).res0 = s.res0 := rfl
@[simp] theorem State.launch_res1 (w : Word) : (s.launch w).res1 = s.res1 := rfl
@[simp] theorem State.launch_rst (w : Word) : (s.launch w).rst = s.rst := rfl
@[simp] theorem State.launch_events (w : Word) : (s.launch w).events = s.events := rfl
@[simp] theorem State.launch_resp (w : Word) : (s.launch w).resp = s.resp := rfl
@[simp] theorem State.launch_draws (w : Word) : (s.launch w).draws = s.draws := rfl

/-! ### clearDone -/

@[simp] theorem State.clearDone_regs : s.clearDone.regs = s.regs := rfl
@[simp] theorem State.clearDone_ctxs : s.clearDone.ctxs = s.ctxs := rfl
@[simp] theorem State.clearDone_buf : s.clearDone.buf = s.buf := rfl
@[simp] theorem State.clearDone_seq : s.clearDone.seq = s.seq := rfl
@[simp] theorem State.clearDone_irqEn : s.clearDone.irqEn = s.irqEn := rfl
@[simp] theorem State.clearDone_done : s.clearDone.done = false := rfl
@[simp] theorem State.clearDone_dropped : s.clearDone.dropped = s.dropped := rfl
@[simp] theorem State.clearDone_errcode : s.clearDone.errcode = s.errcode := rfl
@[simp] theorem State.clearDone_cmdLast : s.clearDone.cmdLast = s.cmdLast := rfl
@[simp] theorem State.clearDone_args : s.clearDone.args = s.args := rfl
@[simp] theorem State.clearDone_res0 : s.clearDone.res0 = s.res0 := rfl
@[simp] theorem State.clearDone_res1 : s.clearDone.res1 = s.res1 := rfl
@[simp] theorem State.clearDone_rst : s.clearDone.rst = s.rst := rfl
@[simp] theorem State.clearDone_events : s.clearDone.events = s.events := rfl
@[simp] theorem State.clearDone_resp : s.clearDone.resp = s.resp := rfl
@[simp] theorem State.clearDone_draws : s.clearDone.draws = s.draws := rfl

/-! ### answer -/

@[simp] theorem State.answer_regs (r : Resp) : (s.answer r).regs = s.regs := rfl
@[simp] theorem State.answer_ctxs (r : Resp) : (s.answer r).ctxs = s.ctxs := rfl
@[simp] theorem State.answer_buf (r : Resp) : (s.answer r).buf = s.buf := rfl
@[simp] theorem State.answer_seq (r : Resp) : (s.answer r).seq = s.seq := rfl
@[simp] theorem State.answer_irqEn (r : Resp) : (s.answer r).irqEn = s.irqEn := rfl
@[simp] theorem State.answer_done (r : Resp) : (s.answer r).done = s.done := rfl
@[simp] theorem State.answer_dropped (r : Resp) : (s.answer r).dropped = s.dropped := rfl
@[simp] theorem State.answer_errcode (r : Resp) : (s.answer r).errcode = s.errcode := rfl
@[simp] theorem State.answer_cmdLast (r : Resp) : (s.answer r).cmdLast = s.cmdLast := rfl
@[simp] theorem State.answer_args (r : Resp) : (s.answer r).args = s.args := rfl
@[simp] theorem State.answer_res0 (r : Resp) : (s.answer r).res0 = s.res0 := rfl
@[simp] theorem State.answer_res1 (r : Resp) : (s.answer r).res1 = s.res1 := rfl
@[simp] theorem State.answer_rst (r : Resp) : (s.answer r).rst = s.rst := rfl
@[simp] theorem State.answer_events (r : Resp) : (s.answer r).events = s.events := rfl
@[simp] theorem State.answer_resp (r : Resp) : (s.answer r).resp = r := rfl
@[simp] theorem State.answer_draws (r : Resp) : (s.answer r).draws = s.draws := rfl

/-! ### releaseRst -/

@[simp] theorem State.releaseRst_regs : s.releaseRst.regs = s.regs := rfl
@[simp] theorem State.releaseRst_ctxs : s.releaseRst.ctxs = s.ctxs := rfl
@[simp] theorem State.releaseRst_buf : s.releaseRst.buf = s.buf := rfl
@[simp] theorem State.releaseRst_seq : s.releaseRst.seq = s.seq := rfl
@[simp] theorem State.releaseRst_irqEn : s.releaseRst.irqEn = s.irqEn := rfl
@[simp] theorem State.releaseRst_done : s.releaseRst.done = s.done := rfl
@[simp] theorem State.releaseRst_dropped : s.releaseRst.dropped = s.dropped := rfl
@[simp] theorem State.releaseRst_errcode : s.releaseRst.errcode = s.errcode := rfl
@[simp] theorem State.releaseRst_cmdLast : s.releaseRst.cmdLast = s.cmdLast := rfl
@[simp] theorem State.releaseRst_args : s.releaseRst.args = s.args := rfl
@[simp] theorem State.releaseRst_res0 : s.releaseRst.res0 = s.res0 := rfl
@[simp] theorem State.releaseRst_res1 : s.releaseRst.res1 = s.res1 := rfl
@[simp] theorem State.releaseRst_rst : s.releaseRst.rst = false := rfl
@[simp] theorem State.releaseRst_events : s.releaseRst.events = s.events := rfl
@[simp] theorem State.releaseRst_resp : s.releaseRst.resp = s.resp := rfl
@[simp] theorem State.releaseRst_draws : s.releaseRst.draws = s.draws := rfl

/-! ### softReset -/

@[simp] theorem State.softReset_regs : s.softReset.regs = State.reset.regs := rfl
@[simp] theorem State.softReset_ctxs : s.softReset.ctxs = State.reset.ctxs := rfl
@[simp] theorem State.softReset_buf : s.softReset.buf = s.buf := rfl
@[simp] theorem State.softReset_seq : s.softReset.seq = State.reset.seq := rfl
@[simp] theorem State.softReset_irqEn : s.softReset.irqEn = State.reset.irqEn := rfl
@[simp] theorem State.softReset_done : s.softReset.done = State.reset.done := rfl
@[simp] theorem State.softReset_dropped : s.softReset.dropped = State.reset.dropped := rfl
@[simp] theorem State.softReset_errcode : s.softReset.errcode = State.reset.errcode := rfl
@[simp] theorem State.softReset_cmdLast : s.softReset.cmdLast = State.reset.cmdLast := rfl
@[simp] theorem State.softReset_args : s.softReset.args = State.reset.args := rfl
@[simp] theorem State.softReset_res0 : s.softReset.res0 = State.reset.res0 := rfl
@[simp] theorem State.softReset_res1 : s.softReset.res1 = State.reset.res1 := rfl
@[simp] theorem State.softReset_rst : s.softReset.rst = s.rst := rfl
@[simp] theorem State.softReset_events : s.softReset.events = s.events := rfl
@[simp] theorem State.softReset_resp : s.softReset.resp = s.resp := rfl
@[simp] theorem State.softReset_draws : s.softReset.draws = s.draws := rfl

/-! ### assertRst -/

@[simp] theorem State.assertRst_regs : s.assertRst.regs = State.reset.regs := rfl
@[simp] theorem State.assertRst_ctxs : s.assertRst.ctxs = State.reset.ctxs := rfl
@[simp] theorem State.assertRst_buf : s.assertRst.buf = State.reset.buf := rfl
@[simp] theorem State.assertRst_seq : s.assertRst.seq = State.reset.seq := rfl
@[simp] theorem State.assertRst_irqEn : s.assertRst.irqEn = State.reset.irqEn := rfl
@[simp] theorem State.assertRst_done : s.assertRst.done = State.reset.done := rfl
@[simp] theorem State.assertRst_dropped : s.assertRst.dropped = State.reset.dropped := rfl
@[simp] theorem State.assertRst_errcode : s.assertRst.errcode = State.reset.errcode := rfl
@[simp] theorem State.assertRst_cmdLast : s.assertRst.cmdLast = State.reset.cmdLast := rfl
@[simp] theorem State.assertRst_args : s.assertRst.args = State.reset.args := rfl
@[simp] theorem State.assertRst_res0 : s.assertRst.res0 = State.reset.res0 := rfl
@[simp] theorem State.assertRst_res1 : s.assertRst.res1 = State.reset.res1 := rfl
@[simp] theorem State.assertRst_rst : s.assertRst.rst = true := rfl
@[simp] theorem State.assertRst_events : s.assertRst.events = s.events := rfl
@[simp] theorem State.assertRst_resp : s.assertRst.resp = State.reset.resp := rfl
@[simp] theorem State.assertRst_draws : s.assertRst.draws = s.draws := rfl

/-! ### Registers and contexts through the accessors -/

theorem State.reg_setReg (i j : Reg) (v : Int) :
    (s.setReg i v).reg j = if j = i then v else s.reg j := by
  simp only [State.reg, State.setReg, Fin.getElem_fin, Vector.getElem_set, Fin.ext_iff, eq_comm]

@[simp] theorem State.reg_setReg_same (i : Reg) (v : Int) : (s.setReg i v).reg i = v := by
  simp [State.reg_setReg]

theorem State.ctx_setCtx (i j : CtxIx) (c : Ctx) :
    (s.setCtx i c).ctx j = if j = i then c else s.ctx j := by
  simp only [State.ctx, State.setCtx, Fin.getElem_fin, Vector.getElem_set, Fin.ext_iff, eq_comm]

@[simp] theorem State.ctx_setCtx_same (i : CtxIx) (c : Ctx) : (s.setCtx i c).ctx i = c := by
  simp [State.ctx_setCtx]

/-- `reg` looks at `regs` only. -/
theorem State.reg_congr {s t : State} (h : t.regs = s.regs) (i : Reg) : t.reg i = s.reg i := by
  simp only [State.reg, h]

/-- `ctx` looks at `ctxs` only. -/
theorem State.ctx_congr {s t : State} (h : t.ctxs = s.ctxs) (k : CtxIx) : t.ctx k = s.ctx k := by
  simp only [State.ctx, h]

/-- `latched` looks at `seq` and `args` only. -/
theorem State.latched_congr {s t : State} (h : t.seq = s.seq) (h' : t.args = s.args) :
    t.latched = s.latched := by
  simp only [State.latched, h, h']

@[simp] theorem State.latched_busy {w : Word} {a : Args} (h : s.seq = .busy w a) : s.latched = a := by
  simp [State.latched, h]

@[simp] theorem State.reset_reg (i : Reg) : State.reset.reg i = 0 := by
  simp [State.reg, State.reset]

@[simp] theorem State.reset_ctx (k : CtxIx) : State.reset.ctx k = Ctx.reset := by
  simp [State.ctx, State.reset]

end Sys2Proof.Machine
end

