-- ==== Sys2Proof/Laws/Memory.lean ====
section
/-! SUPPORT. The laws of the byte buffer: what a read after a write gives, that every operation keeps the
canonical form, and when a read succeeds. -/

namespace Sys2Proof.Machine

/-- The offsets of a memory are strictly rising, and each is at least `lo`. -/
theorem rising_cons {c : Host.Cell} {m : Memory} :
    (c :: m).Pairwise (fun a b => a.1 < b.1) ↔
      (∀ d ∈ m, c.1 < d.1) ∧ m.Pairwise (fun a b => a.1 < b.1) := List.pairwise_cons

/-- No byte below every listed offset is written. -/
theorem memGet_below {m : Memory} {a : Nat} (h : ∀ c ∈ m, a < c.1) : memGet m a = none := by
  cases m with
  | nil => rfl
  | cons c m =>
    have hc := h c (by simp)
    simp [memGet, show ¬ a = c.1 by omega, hc]

/-- Read after write of one byte (R104). -/
theorem memGet_memSet (m : Memory) (hm : m.Pairwise (fun a b => a.1 < b.1)) (a x : Nat) (v : Byte) :
    memGet (memSet m a v) x = if x = a then some v else memGet m x := by
  induction m with
  | nil => simp only [memSet, memGet]; split <;> simp
  | cons c m ih =>
    obtain ⟨k, w⟩ := c
    obtain ⟨hk, hm⟩ := rising_cons.mp hm
    simp only [memSet]
    by_cases h1 : a = k
    · subst h1
      simp only [if_true, memGet]
      by_cases hx : x = a <;> simp [hx]
    · simp only [h1, if_false]
      by_cases h2 : a < k
      · simp only [h2, if_true, memGet]
        by_cases hx : x = a
        · simp [hx]
        · simp only [hx, if_false]
          by_cases hxa : x < a
          · simp [hxa, show ¬ x = k by omega, show x < k by omega]
          · simp [hxa]
      · simp only [h2, if_false, memGet]
        by_cases hx : x = k
        · simp [hx, show ¬ k = a by omega]
        · simp only [hx, if_false]
          by_cases hxk : x < k
          · simp [hxk, show ¬ x = a by omega]
          · simp only [hxk, if_false]; exact ih hm

/-- The offsets of a memory after one write. -/
theorem mem_memSet {m : Memory} {a : Nat} {v : Byte} {c : Host.Cell} (h : c ∈ memSet m a v) :
    c = (a, v) ∨ c ∈ m := by
  induction m with
  | nil => simpa [memSet] using h
  | cons d m ih =>
    obtain ⟨k, w⟩ := d
    simp only [memSet] at h
    split at h
    · rcases List.mem_cons.mp h with h | h <;> simp [h]
    · split at h
      · rcases List.mem_cons.mp h with h | h <;> simp [h]
      · rcases List.mem_cons.mp h with h | h
        · simp [h]
        · rcases ih h with h | h <;> simp [h]

/-- A write of one byte keeps the offsets strictly rising. -/
theorem memSet_rising {m : Memory} (hm : m.Pairwise (fun a b => a.1 < b.1)) (a : Nat) (v : Byte) :
    (memSet m a v).Pairwise (fun a b => a.1 < b.1) := by
  induction m with
  | nil => simp [memSet]
  | cons c m ih =>
    obtain ⟨k, w⟩ := c
    obtain ⟨hk, hm'⟩ := rising_cons.mp hm
    simp only [memSet]
    split
    · subst_vars; exact rising_cons.mpr ⟨hk, hm'⟩
    · split
      · refine rising_cons.mpr ⟨?_, hm⟩
        intro d hd
        rcases List.mem_cons.mp hd with rfl | hd
        · assumption
        · have := hk d hd; simp only at this ⊢; omega
      · refine rising_cons.mpr ⟨?_, ih hm'⟩
        intro d hd
        rcases mem_memSet hd with rfl | hd
        · simp only; omega
        · exact hk d hd

/-- A write of one byte inside BUF keeps the canonical form. -/
theorem memSet_wf {m : Memory} (hm : Memory.wf m) {a : Nat} (ha : a < Config.bufBytes) (v : Byte) :
    Memory.wf (memSet m a v) := by
  refine ⟨memSet_rising hm.1 a v, fun c hc => ?_⟩
  rcases mem_memSet hc with rfl | hc
  · exact ha
  · exact hm.2 c hc

/-- MemWrite keeps the offsets strictly rising. -/
theorem memWrite_rising (bytes : List Byte) :
    ∀ {m : Memory}, m.Pairwise (fun a b => a.1 < b.1) → ∀ a,
      (memWrite m a bytes).Pairwise (fun a b => a.1 < b.1) := by
  induction bytes with
  | nil => intro m hm a; exact hm
  | cons b s ih => intro m hm a; exact ih (memSet_rising hm a b) (a + 1)

/-- MemWrite on a valid range keeps the canonical form (R103, R104). -/
theorem memWrite_wf (bytes : List Byte) :
    ∀ {m : Memory}, Memory.wf m → ∀ {a : Nat}, a + bytes.length ≤ Config.bufBytes →
      Memory.wf (memWrite m a bytes) := by
  induction bytes with
  | nil => intro m hm a _; exact hm
  | cons b s ih =>
    intro m hm a ha
    simp only [List.length_cons] at ha
    exact ih (memSet_wf hm (by omega) b) (by omega)

/-- Reading one byte after MemWrite (R104, R106): the stored byte inside the range, the old one outside. -/
theorem memGet_memWrite (bytes : List Byte) :
    ∀ {m : Memory}, m.Pairwise (fun a b => a.1 < b.1) → ∀ (a x : Nat),
      memGet (memWrite m a bytes) x =
        if a ≤ x ∧ x < a + bytes.length then bytes[x - a]? else memGet m x := by
  induction bytes with
  | nil => intro m _ a x; simp [memWrite, show ¬ (a ≤ x ∧ x < a) by omega]
  | cons b s ih =>
    intro m hm a x
    simp only [memWrite, List.length_cons]
    rw [ih (memSet_rising hm a b), memGet_memSet m hm]
    by_cases h1 : a + 1 ≤ x ∧ x < a + 1 + s.length
    · rw [if_pos h1, if_pos (by omega)]
      rw [show x - a = (x - (a + 1)) + 1 by omega]
      rfl
    · rw [if_neg h1]
      by_cases h2 : x = a
      · subst h2; simp
      · rw [if_neg h2, if_neg (by omega)]

/-- A successful MemRead gives as many bytes as asked for. -/
theorem memRead_length {g : Agent} {m : Memory} :
    ∀ {n a : Nat} {bytes : List Byte}, memRead g m a n = .ok bytes → bytes.length = n := by
  intro n
  induction n with
  | zero => intro a bytes h; simp only [memRead, Except.ok.injEq] at h; simp [← h]
  | succ n ih =>
    intro a bytes h
    simp only [memRead] at h
    split at h
    · cases h
    · split at h
      · rename_i s hs
        simp only [Except.ok.injEq] at h
        simp [← h, ih hs]
      · cases h

/-- What MemRead reads (R104): it succeeds with `bytes` exactly if the range holds them. -/
theorem memRead_eq_ok {g : Agent} {m : Memory} :
    ∀ {n a : Nat} {bytes : List Byte}, bytes.length = n →
      (memRead g m a n = .ok bytes ↔
        ∀ (i : Nat) (h : i < bytes.length), memGet m (a + i) = some bytes[i]) := by
  intro n
  induction n with
  | zero =>
    intro a bytes h
    rw [List.length_eq_zero_iff] at h
    simp [memRead, h]
  | succ n ih =>
    intro a bytes h
    obtain ⟨b, s, rfl⟩ := List.exists_cons_of_length_eq_add_one h
    simp only [List.length_cons, Nat.add_right_cancel_iff] at h
    have key := ih (a := a + 1) h
    constructor
    · intro hr i hi
      simp only [memRead] at hr
      split at hr
      · cases hr
      · rename_i b' hb
        split at hr
        · rename_i s' hs
          simp only [Except.ok.injEq, List.cons.injEq] at hr
          obtain ⟨rfl, rfl⟩ := hr
          cases i with
          | zero => simpa using hb
          | succ i =>
            have := key.mp hs i (by simpa using hi)
            simpa [Nat.add_assoc, Nat.add_comm 1 i] using this
        · cases hr
    · intro hall
      have h0 := hall 0 (by simp)
      have hs : memRead g m (a + 1) n = .ok s := key.mpr (fun i hi => by
        have := hall (i + 1) (by simpa using hi)
        simpa [Nat.add_assoc, Nat.add_comm 1 i] using this)
      simp only [Nat.add_zero, List.getElem_cons_zero] at h0
      simp [memRead, h0, hs]

/-- A failed MemRead names an unwritten byte of its range (R555). -/
theorem memRead_error {g : Agent} {m : Memory} :
    ∀ {n a : Nat} {f : Fault}, memRead g m a n = .error f →
      ∃ x, a ≤ x ∧ x < a + n ∧ memGet m x = none ∧ f = .unwrittenRead g x := by
  intro n
  induction n with
  | zero => intro a f h; cases h
  | succ n ih =>
    intro a f h
    simp only [memRead] at h
    split at h
    · rename_i hx
      cases h
      exact ⟨a, by omega, by omega, hx, rfl⟩
    · split at h
      · cases h
      · rename_i f' hs
        cases h
        obtain ⟨x, h1, h2, h3, h4⟩ := ih hs
        exact ⟨x, by omega, by omega, h3, h4⟩

/-- MemRead depends on the reading agent only in the fault it names. -/
theorem memRead_ok_agent {g g' : Agent} {m : Memory} {a n : Nat} {bytes : List Byte}
    (h : memRead g m a n = .ok bytes) : memRead g' m a n = .ok bytes :=
  (memRead_eq_ok (memRead_length h)).mpr ((memRead_eq_ok (memRead_length h)).mp h)

@[simp] theorem toLE_length (v n : Nat) : (toLE v n).length = n := by
  induction n generalizing v with
  | zero => rfl
  | succ n ih => simp [toLE, ih]

@[simp] theorem toBE_length (v n : Nat) : (toBE v n).length = n := by simp [toBE]

/-- `LE(toLE(v, n)) = v mod 256^n` (R16, R107). -/
theorem leValue_toLE (v n : Nat) : leValue (toLE v n) = v % 256 ^ n := by
  induction n generalizing v with
  | zero => simp [toLE, leValue, Nat.mod_one]
  | succ n ih =>
    simp only [toLE, leValue, ih, BitVec.toNat_ofNat]
    have h : v % 256 ^ (n + 1) = v % 256 + 256 * (v / 256 % 256 ^ n) := by
      rw [Nat.pow_succ', Nat.mod_mul]
    rw [h]

/-- `BE(toBE(v, n)) = v mod 256^n` (R16). -/
theorem beValue_toBE (v n : Nat) : beValue (toBE v n) = v % 256 ^ n := by
  simp [beValue, toBE, leValue_toLE]

/-- Every byte string is the `toLE` of its value (R16). -/
theorem toLE_leValue (s : List Byte) : toLE (leValue s) s.length = s := by
  induction s with
  | nil => rfl
  | cons b s ih =>
    have hb := b.isLt
    have h1 : BitVec.ofNat 8 (b.toNat + 256 * leValue s) = b := by
      apply BitVec.eq_of_toNat_eq
      simp only [BitVec.toNat_ofNat]
      omega
    have h2 : (b.toNat + 256 * leValue s) / 256 = leValue s := by omega
    simp [toLE, leValue, h1, h2, ih]

end Sys2Proof.Machine
end

