-- ==== Sys2Proof/Laws/Numbers.lean ====
section
/-! SUPPORT. The computed forms of log 13 meet the rules' own definitions: lengths are least, shifts are
the ones of R211 and R212, and every bound on a loop suffices. -/

namespace Sys2Proof.Machine

theorem cap_eq : Config.cap = 2 ^ 8192 := by
  have h : Config.capBits = 8192 := rfl
  rw [Config.cap, h]

/-! ## Lengths -/

theorem lt_two_pow_bitLen (v : Nat) : v < 2 ^ bitLen v := by
  unfold bitLen
  split
  · simp_all
  · exact Nat.lt_log2_self

theorem bitLen_le {v n : Nat} (h : v < 2 ^ n) : bitLen v ≤ n := by
  unfold bitLen
  split
  · omega
  · rename_i hv
    exact (Nat.log2_lt hv).2 h

theorem bitLen_le_iff {v n : Nat} : bitLen v ≤ n ↔ v < 2 ^ n :=
  ⟨fun h => lt_of_lt_of_le (lt_two_pow_bitLen v) (Nat.pow_le_pow_right (by omega) h), bitLen_le⟩

theorem byteLen_le_iff {v n : Nat} : byteLen v ≤ n ↔ v < 256 ^ n := by
  have h : (256 : Nat) ^ n = 2 ^ (8 * n) := by rw [Nat.pow_mul]
  rw [h, ← bitLen_le_iff]
  unfold byteLen
  omega

/-! ## Shifts -/

theorem shiftLeft_eq (a : Int) (k : Nat) : shiftLeft a k = sgn a * ((a.natAbs * 2 ^ k : Nat) : Int) := by
  unfold shiftLeft
  split
  · simp_all
  · rfl

theorem shiftRight_eq (a : Int) (k : Nat) :
    shiftRight a k = sgn a * ((a.natAbs / 2 ^ k : Nat) : Int) := by
  unfold shiftRight
  split
  · rename_i h
    rw [Nat.div_eq_of_lt (bitLen_le_iff.1 h)]
    simp
  · rfl

/-! ## Loop bounds -/

theorem splitTwo_spec (fuel n : Nat) (hn : 0 < n) (hf : n ≤ fuel) :
    n = (splitTwo fuel n).1 * 2 ^ (splitTwo fuel n).2 ∧ (splitTwo fuel n).1 % 2 = 1 := by
  induction fuel generalizing n with
  | zero => omega
  | succ fuel ih =>
    unfold splitTwo
    split
    · obtain ⟨h1, h2⟩ := ih (n / 2) (by omega) (by omega)
      refine ⟨?_, h2⟩
      simp only [Nat.pow_succ, ← Nat.mul_assoc, ← h1]
      omega
    · exact ⟨by simp, by simp; omega⟩

/-- One more unit of fuel changes nothing once the fuel covers the remainder `r1`. -/
theorem extLoop_fuel (fuel : Nat) (r0 r1 s0 s1 t0 t1 : Int) (h0 : 0 ≤ r1) (hf : r1 ≤ fuel) :
    extLoop (fuel + 1) r0 r1 s0 s1 t0 t1 = extLoop fuel r0 r1 s0 s1 t0 t1 := by
  induction fuel generalizing r0 r1 s0 s1 t0 t1 with
  | zero =>
    have : r1 = 0 := by omega
    simp [extLoop, this]
  | succ fuel ih =>
    rw [extLoop]
    conv_rhs => rw [extLoop]
    split
    · rfl
    · have hr : r0 - r0.fdiv r1 * r1 = r0.fmod r1 := by
        rw [Int.fmod_def, Int.mul_comm]
      have hpos : 0 < r1 := by omega
      have := Int.fmod_lt_of_pos r0 hpos
      have := Int.fmod_nonneg_of_pos r0 hpos
      simp only [hr]
      exact ih _ _ _ _ _ _ (by omega) (by omega)

theorem leastOrder_lt {p t : Int} {M i : Nat} (h : leastOrder p t M = some i) : 1 ≤ i ∧ i < M := by
  have := List.mem_range'_1.1 (List.mem_of_find?_eq_some h)
  omega

/-- One more unit of fuel changes nothing once the fuel covers `M`. -/
theorem tonelliLoop_fuel (p : Int) (fuel M : Nat) (c t R : Int) (hf : M ≤ fuel) :
    tonelliLoop p (fuel + 1) M c t R = tonelliLoop p fuel M c t R := by
  induction fuel generalizing M c t R with
  | zero =>
    have : leastOrder p t M = none := by
      have : M = 0 := by omega
      simp [leastOrder, this]
    simp [tonelliLoop, this]
  | succ fuel ih =>
    rw [tonelliLoop]
    conv_rhs => rw [tonelliLoop]
    split
    · rfl
    · cases h : leastOrder p t M with
      | none => rfl
      | some i =>
        have := leastOrder_lt h
        exact ih _ _ _ _ (by omega)

/-- One more unit of fuel changes nothing once the fuel covers the candidates up to `SQRT_Z_MAX`. -/
theorem findNonResidue_fuel (p : Int) (fuel : Nat) (z : Int)
    (hf : (Config.sqrtZMax : Int) < z + fuel) :
    findNonResidue p (fuel + 1) z = findNonResidue p fuel z := by
  induction fuel generalizing z with
  | zero =>
    have h : z > (Config.sqrtZMax : Int) ∨ z ≥ p := .inl (by simpa using hf)
    simp only [findNonResidue, if_pos h]
  | succ fuel ih =>
    rw [findNonResidue]
    conv_rhs => rw [findNonResidue]
    rw [ih (z + 1) (by push_cast at hf ⊢; omega)]

theorem decimalOnto_fuel (fuel v : Nat) (acc : List Byte) (hf : v ≤ fuel) :
    decimalOnto (fuel + 1) v acc = decimalOnto fuel v acc := by
  induction fuel generalizing v acc with
  | zero => simp [decimalOnto, Nat.le_zero.1 hf]
  | succ fuel ih =>
    rw [decimalOnto]
    conv_rhs => rw [decimalOnto]
    split
    · rfl
    · exact ih _ _ (by omega)

/-- No `d, d+2, …` with a square at most `q` divides `q`. -/
theorem noOddFactor_iff (q fuel d : Nat) (hf : q < d + 2 * fuel) :
    noOddFactor q fuel d = true ↔ ∀ j, (d + 2 * j) * (d + 2 * j) ≤ q → q % (d + 2 * j) ≠ 0 := by
  induction fuel generalizing d with
  | zero =>
    simp only [noOddFactor, true_iff]
    intro j hj
    nlinarith
  | succ fuel ih =>
    rw [noOddFactor]
    split
    · simp only [true_iff]
      intro j hj
      nlinarith
    · rename_i hd
      rw [Bool.and_eq_true, ih (d + 2) (by omega)]
      constructor
      · rintro ⟨h0, h⟩ j hj
        cases j with
        | zero => simpa using h0
        | succ j =>
          have e : d + 2 * (j + 1) = d + 2 + 2 * j := by omega
          rw [e] at hj ⊢
          exact h j hj
      · intro h
        refine ⟨by simpa using h 0 (by simpa using hd), fun j hj => ?_⟩
        have e : d + 2 + 2 * j = d + 2 * (j + 1) := by omega
        rw [e] at hj ⊢
        exact h (j + 1) hj

/-- TRIAL_PRIMES are exactly the odd primes below TRIAL_BOUND (R354). -/
theorem mem_trialPrimes {q : Nat} : q ∈ trialPrimes ↔ 3 ≤ q ∧ q < 1000 ∧ q.Prime := by
  simp only [trialPrimes, List.mem_filter, List.mem_range, Bool.and_eq_true, decide_eq_true_eq, beq_iff_eq]
  constructor
  · rintro ⟨h, ⟨h3, hodd⟩, hn⟩
    refine ⟨h3, h, ?_⟩
    rw [noOddFactor_iff _ _ _ (by omega)] at hn
    by_contra hp
    have hm := Nat.minFac_sq_le_self (by omega) hp
    have hd := Nat.minFac_dvd q
    have hpr := Nat.minFac_prime (n := q) (by omega)
    have hne : q.minFac ≠ 2 := by
      intro e; rw [e] at hd; omega
    have ho := hpr.odd_of_ne_two hne
    have := hpr.two_le
    obtain ⟨m, hm'⟩ := ho
    have e : q.minFac = 3 + 2 * (m - 1) := by omega
    exact hn (m - 1) (by rw [← e, ← sq]; exact hm) (by rw [← e]; exact Nat.mod_eq_zero_of_dvd hd)
  · rintro ⟨h3, h, hp⟩
    have hodd := hp.eq_two_or_odd.resolve_left (by omega)
    refine ⟨h, ⟨h3, hodd⟩, ?_⟩
    rw [noOddFactor_iff _ _ _ (by omega)]
    intro j hj hz
    rcases (Nat.dvd_prime hp).1 (Nat.dvd_of_mod_eq_zero hz) with e | e
    · omega
    · rw [e] at hj; nlinarith
end Sys2Proof.Machine
end

