-- ==== Sys2Proof/Laws/Ops.lean ====
section
/-! SUPPORT. One lemma per shared operation of Machine/Ops.lean that says everything it can do, for the
proofs to cite instead of unfolding it. -/

namespace Sys2Proof.Machine

variable (s : State)

/-! ### Ending a command -/

@[simp] theorem complete_ok (t : State) : s.complete (.ok t) = t.succeed := rfl

@[simp] theorem complete_error (e : ErrCode) : s.complete (.error e) = s.fail e := rfl

/-- Completion installs the computed state, or takes the error (R502, R503). -/
theorem complete_cases (r : Except ErrCode State) :
    (∃ t, r = .ok t ∧ s.complete r = t.succeed) ∨
    (∃ e, r = .error e ∧ s.complete r = s.fail e) := by
  cases r with
  | ok t => exact .inl ⟨t, rfl, rfl⟩
  | error e => exact .inr ⟨e, rfl, rfl⟩

@[simp] theorem finish_ok {α : Type} (x : α) (k : α → State) : s.finish (.ok x) k = .next (k x) := rfl

@[simp] theorem finish_raise {α : Type} (e : ErrCode) (k : α → State) :
    s.finish (.error (.raise e)) k = .next (s.fail e) := rfl

@[simp] theorem finish_fault {α : Type} (f : Fault) (k : α → State) :
    s.finish (.error (.fault f)) k = .fault f := rfl

/-- A command that reads the buffer completes from what it read, takes an error, or faults. -/
theorem finish_cases {α : Type} (r : Except Stop α) (k : α → State) :
    (∃ x, r = .ok x ∧ s.finish r k = .next (k x)) ∨
    (∃ e, r = .error (.raise e) ∧ s.finish r k = .next (s.fail e)) ∨
    (∃ f, r = .error (.fault f) ∧ s.finish r k = .fault f) := by
  rcases r with (e | f) | x
  · exact .inr (.inl ⟨e, rfl, rfl⟩)
  · exact .inr (.inr ⟨f, rfl, rfl⟩)
  · exact .inl ⟨x, rfl, rfl⟩

@[simp] theorem need_true (e : ErrCode) : need true e = .ok () := rfl

@[simp] theorem need_false (e : ErrCode) : need false e = .error e := rfl

theorem need_eq_ok {c : Bool} {e : ErrCode} {u : Unit} : need c e = .ok u ↔ c = true := by
  cases c <;> simp [need]

@[simp] theorem require_true (e : ErrCode) : require true e = .ok () := rfl

@[simp] theorem require_false (e : ErrCode) : require false e = .error (.raise e) := rfl

theorem require_eq_ok {c : Bool} {e : ErrCode} {u : Unit} : require c e = .ok u ↔ c = true := by
  cases c <;> simp [require]

theorem rangeOk_iff {a n : Nat} : rangeOk a n = true ↔ a + n ≤ Config.bufBytes := by simp [rangeOk]

/-- `check range` passes exactly on a valid range (R103). -/
theorem checkRange_eq_ok {a n : Nat} {u : Unit} :
    checkRange a n = .ok u ↔ a + n ≤ Config.bufBytes := by
  simp [checkRange, require_eq_ok, rangeOk_iff]

/-- On an invalid range `check range` raises AddressRange (R103). -/
theorem checkRange_raises {a n : Nat} (h : Config.bufBytes < a + n) :
    checkRange a n = .error (.raise .addressRange) := by
  have : rangeOk a n = false := by simp [rangeOk]; omega
  simp [checkRange, this]

/-- A command's MemRead succeeds with `bytes` exactly if the range holds them. -/
theorem read_eq_ok {a n : Nat} {bytes : List Byte} (hn : bytes.length = n) :
    s.read a n = .ok bytes ↔ s.Holds a bytes := by
  unfold State.read State.Holds
  rw [← memRead_eq_ok (g := .core) hn]
  cases memRead .core s.buf a n <;> simp

theorem read_length {a n : Nat} {bytes : List Byte} (h : s.read a n = .ok bytes) :
    bytes.length = n := by
  unfold State.read at h
  split at h
  · rename_i b hb
    simp only [Except.ok.injEq] at h
    exact h ▸ memRead_length hb
  · cases h

/-- A command's MemRead never raises; it fails only by a fault at an unwritten byte of its range. -/
theorem read_error {a n : Nat} {e : Stop} (h : s.read a n = .error e) :
    ∃ x, a ≤ x ∧ x < a + n ∧ memGet s.buf x = none ∧ e = .fault (.unwrittenRead .core x) := by
  unfold State.read at h
  split at h
  · cases h
  · rename_i f hf
    cases h
    obtain ⟨x, h1, h2, h3, rfl⟩ := memRead_error hf
    exact ⟨x, h1, h2, h3, rfl⟩

/-! ### Registers -/

theorem fits_iff {v : Int} : fits v = true ↔ v.natAbs < Config.cap := by simp [fits]

/-- `writeReg` writes a value that fits and raises CapacityExceeded otherwise (R200). -/
theorem writeReg_cases (i : Reg) (v : Int) :
    (v.natAbs < Config.cap ∧ s.writeReg i v = .ok (s.setReg i v)) ∨
    (Config.cap ≤ v.natAbs ∧ s.writeReg i v = .error .capacityExceeded) := by
  by_cases h : v.natAbs < Config.cap
  · exact .inl ⟨h, by simp [State.writeReg, fits_iff.mpr h]⟩
  · refine .inr ⟨by omega, ?_⟩
    have : fits v = false := by simp [fits]; omega
    simp [State.writeReg, this]

theorem writeReg_ok {i : Reg} {v : Int} (h : v.natAbs < Config.cap) :
    s.writeReg i v = .ok (s.setReg i v) := by
  simp [State.writeReg, fits_iff.mpr h]

theorem writeReg_error {i : Reg} {v : Int} (h : Config.cap ≤ v.natAbs) :
    s.writeReg i v = .error .capacityExceeded := by
  rcases writeReg_cases s i v with ⟨h', _⟩ | ⟨_, h'⟩
  · omega
  · exact h'

theorem putReg_ok {i : Reg} {v : Int} (h : v.natAbs < Config.cap) :
    s.putReg i v = .ok ((s.setReg i v).setRes 0 0) := by
  simp [State.putReg, writeReg_ok s h, bind, Except.bind]

theorem putReg_error {i : Reg} {v : Int} (h : Config.cap ≤ v.natAbs) :
    s.putReg i v = .error .capacityExceeded := by
  simp [State.putReg, writeReg_error s h, bind, Except.bind]

/-- Writing a register and clearing the results, or CapacityExceeded (R200, R47). -/
theorem putReg_cases (i : Reg) (v : Int) :
    (v.natAbs < Config.cap ∧ s.putReg i v = .ok ((s.setReg i v).setRes 0 0)) ∨
    (Config.cap ≤ v.natAbs ∧ s.putReg i v = .error .capacityExceeded) := by
  by_cases h : v.natAbs < Config.cap
  · exact .inl ⟨h, putReg_ok s h⟩
  · exact .inr ⟨by omega, putReg_error s (by omega)⟩

/-- A register written with a value in range leaves every register in range (R30, R200). -/
theorem setReg_inRange {i : Reg} {v : Int} (hs : s.RegsInRange) (h : v.natAbs < Config.cap) :
    (s.setReg i v).RegsInRange := by
  intro j
  rw [State.reg_setReg]
  split
  · exact h
  · exact hs j

/-! ### Entropy -/

/-- A draw fails with FunctionFailed or supplies a value (R60, R61). -/
theorem draw_cases (src : Source) (i : Nat) :
    (∃ r, src i = some r ∧ draw src i = .ok r) ∨
    (src i = none ∧ draw src i = .error .functionFailed) := by
  cases h : src i with
  | none => exact .inr ⟨rfl, by simp [draw, h]⟩
  | some r => exact .inl ⟨r, rfl, by simp [draw, h]⟩

theorem drawUniform_cases (src : Source) (i : Nat) (lo hi : Int) :
    (∃ r, src i = some r ∧ drawUniform src i lo hi = .ok (uniformOf r lo hi)) ∨
    (src i = none ∧ drawUniform src i lo hi = .error .functionFailed) := by
  rcases draw_cases src i with ⟨r, h, h'⟩ | ⟨h, h'⟩
  · exact .inl ⟨r, h, by simp [drawUniform, h']⟩
  · exact .inr ⟨h, by simp [drawUniform, h']⟩

end Sys2Proof.Machine
end

