-- ==== Sys2Proof/Laws/PerInstr.lean ====
section
/-! SUPPORT. One lemma per constructor for the family of statements made per instruction. -/

namespace Sys2Proof.Laws

/-- The fields of an instruction name a row of the opcode map (R157) and leave every field and reserved
bit that the row does not use at 0 (R155). -/
def CleanFields.Statement (i : Instr) : Prop :=
  ∃ op, Op.ofCode i.fields.opc = some op ∧ i.fields.unusedZero op = true

/-- A mode code leaves FL[3] clear (R450, R153). -/
@[simp] theorem modeField_clear (m : Mode) : modeField m &&& 8#4 = 0#4 := by cases m <;> decide

/-- The AESLEN immediate leaves `IMM[31:2]` clear (R154). -/
@[simp] theorem aeslenImm_clear (dir : Dir) (first : Bool) :
    ((if dir = .dec then 1#32 else 0#32) ||| (if first then 2#32 else 0#32)) &&& 4294967292#32 = 0#32 := by
  cases dir <;> cases first <;> decide

/-- A flag in FL[0] leaves the other three bits clear (R153). -/
@[simp] theorem flagBit_clear (b : Bool) : flagBit b &&& 14#4 = 0#4 := by cases b <;> decide

/-- BLOAD's two flags leave FL[3:2] clear (R153). -/
@[simp] theorem loadFlags_clear (a b : Bool) : (flagBit a ||| flagBit b <<< 1) &&& 12#4 = 0#4 := by
  cases a <;> cases b <;> decide

theorem CleanFields.nop : CleanFields.Statement .nop :=
  ⟨.nop, ofCode_code .nop, by
    simp [Instr.fields, Fields.unusedZero, Op.bare, Op.format, Format.uses, Op.flReserved,
      Op.immReserved]⟩

theorem CleanFields.bseti (rd : Reg) (imm : BitVec 32) : CleanFields.Statement (.bseti rd imm) :=
  ⟨.bseti, ofCode_code .bseti, by
    simp [Instr.fields, Fields.unusedZero, Op.bare, Op.format, Format.uses, Op.flReserved,
      Op.immReserved]⟩

theorem CleanFields.bmov (rd rs1 : Reg) : CleanFields.Statement (.bmov rd rs1) :=
  ⟨.bmov, ofCode_code .bmov, by
    simp [Instr.fields, Fields.unusedZero, Op.bare, Op.format, Format.uses, Op.flReserved,
      Op.immReserved]⟩

theorem CleanFields.bneg (rd rs1 : Reg) : CleanFields.Statement (.bneg rd rs1) :=
  ⟨.bneg, ofCode_code .bneg, by
    simp [Instr.fields, Fields.unusedZero, Op.bare, Op.format, Format.uses, Op.flReserved,
      Op.immReserved]⟩

theorem CleanFields.badd (rd rs1 rs2 : Reg) : CleanFields.Statement (.badd rd rs1 rs2) :=
  ⟨.badd, ofCode_code .badd, by
    simp [Instr.fields, Fields.unusedZero, Op.bare, Op.format, Format.uses, Op.flReserved,
      Op.immReserved]⟩

theorem CleanFields.bsub (rd rs1 rs2 : Reg) : CleanFields.Statement (.bsub rd rs1 rs2) :=
  ⟨.bsub, ofCode_code .bsub, by
    simp [Instr.fields, Fields.unusedZero, Op.bare, Op.format, Format.uses, Op.flReserved,
      Op.immReserved]⟩

theorem CleanFields.bmul (rd rs1 rs2 : Reg) : CleanFields.Statement (.bmul rd rs1 rs2) :=
  ⟨.bmul, ofCode_code .bmul, by
    simp [Instr.fields, Fields.unusedZero, Op.bare, Op.format, Format.uses, Op.flReserved,
      Op.immReserved]⟩

theorem CleanFields.bdivrem (rd rd2 rs1 rs2 : Reg) : CleanFields.Statement (.bdivrem rd rd2 rs1 rs2) :=
  ⟨.bdivrem, ofCode_code .bdivrem, by
    simp [Instr.fields, Fields.unusedZero, Op.bare, Op.format, Format.uses, Op.flReserved,
      Op.immReserved]⟩

theorem CleanFields.bmod (rd rs1 rs2 : Reg) : CleanFields.Statement (.bmod rd rs1 rs2) :=
  ⟨.bmod, ofCode_code .bmod, by
    simp [Instr.fields, Fields.unusedZero, Op.bare, Op.format, Format.uses, Op.flReserved,
      Op.immReserved]⟩

theorem CleanFields.bcmp (rs1 rs2 : Reg) : CleanFields.Statement (.bcmp rs1 rs2) :=
  ⟨.bcmp, ofCode_code .bcmp, by
    simp [Instr.fields, Fields.unusedZero, Op.bare, Op.format, Format.uses, Op.flReserved,
      Op.immReserved]⟩

theorem CleanFields.bshl (rd rs1 : Reg) (k : BitVec 32) : CleanFields.Statement (.bshl rd rs1 k) :=
  ⟨.bshl, ofCode_code .bshl, by
    simp [Instr.fields, Fields.unusedZero, Op.bare, Op.format, Format.uses, Op.flReserved,
      Op.immReserved]⟩

theorem CleanFields.bshr (rd rs1 : Reg) (k : BitVec 32) : CleanFields.Statement (.bshr rd rs1 k) :=
  ⟨.bshr, ofCode_code .bshr, by
    simp [Instr.fields, Fields.unusedZero, Op.bare, Op.format, Format.uses, Op.flReserved,
      Op.immReserved]⟩

theorem CleanFields.bbitlen (rs1 : Reg) : CleanFields.Statement (.bbitlen rs1) :=
  ⟨.bbitlen, ofCode_code .bbitlen, by
    simp [Instr.fields, Fields.unusedZero, Op.bare, Op.format, Format.uses, Op.flReserved,
      Op.immReserved]⟩

theorem CleanFields.bload (rd : Reg) (le neg : Bool) : CleanFields.Statement (.bload rd le neg) :=
  ⟨.bload, ofCode_code .bload, by
    simp [Instr.fields, Fields.unusedZero, Op.bare, Op.format, Format.uses, Op.flReserved,
      Op.immReserved]⟩

theorem CleanFields.bstore (rs1 : Reg) (le : Bool) : CleanFields.Statement (.bstore rs1 le) :=
  ⟨.bstore, ofCode_code .bstore, by
    simp [Instr.fields, Fields.unusedZero, Op.bare, Op.format, Format.uses, Op.flReserved,
      Op.immReserved]⟩

theorem CleanFields.bfromdec (rd : Reg) : CleanFields.Statement (.bfromdec rd) :=
  ⟨.bfromdec, ofCode_code .bfromdec, by
    simp [Instr.fields, Fields.unusedZero, Op.bare, Op.format, Format.uses, Op.flReserved,
      Op.immReserved]⟩

theorem CleanFields.btodec (rs1 : Reg) : CleanFields.Statement (.btodec rs1) :=
  ⟨.btodec, ofCode_code .btodec, by
    simp [Instr.fields, Fields.unusedZero, Op.bare, Op.format, Format.uses, Op.flReserved,
      Op.immReserved]⟩

theorem CleanFields.bmodmul (rd rs1 rs2 rs3 : Reg) : CleanFields.Statement (.bmodmul rd rs1 rs2 rs3) :=
  ⟨.bmodmul, ofCode_code .bmodmul, by
    simp [Instr.fields, Fields.unusedZero, Op.bare, Op.format, Format.uses, Op.flReserved,
      Op.immReserved]⟩

theorem CleanFields.bmodexp (rd rs1 rs2 rs3 : Reg) : CleanFields.Statement (.bmodexp rd rs1 rs2 rs3) :=
  ⟨.bmodexp, ofCode_code .bmodexp, by
    simp [Instr.fields, Fields.unusedZero, Op.bare, Op.format, Format.uses, Op.flReserved,
      Op.immReserved]⟩

theorem CleanFields.bgcd (rd rs1 rs2 : Reg) : CleanFields.Statement (.bgcd rd rs1 rs2) :=
  ⟨.bgcd, ofCode_code .bgcd, by
    simp [Instr.fields, Fields.unusedZero, Op.bare, Op.format, Format.uses, Op.flReserved,
      Op.immReserved]⟩

theorem CleanFields.bextgcd (rd rd2 rd3 rs1 rs2 : Reg) : CleanFields.Statement (.bextgcd rd rd2 rd3 rs1 rs2) :=
  ⟨.bextgcd, ofCode_code .bextgcd, by
    simp [Instr.fields, Fields.unusedZero, Op.bare, Op.format, Format.uses, Op.flReserved,
      Op.immReserved]⟩

theorem CleanFields.bmodinv (rd rs1 rs2 : Reg) : CleanFields.Statement (.bmodinv rd rs1 rs2) :=
  ⟨.bmodinv, ofCode_code .bmodinv, by
    simp [Instr.fields, Fields.unusedZero, Op.bare, Op.format, Format.uses, Op.flReserved,
      Op.immReserved]⟩

theorem CleanFields.qrtest (rs1 rs2 : Reg) : CleanFields.Statement (.qrtest rs1 rs2) :=
  ⟨.qrtest, ofCode_code .qrtest, by
    simp [Instr.fields, Fields.unusedZero, Op.bare, Op.format, Format.uses, Op.flReserved,
      Op.immReserved]⟩

theorem CleanFields.sqrtmod (rd rs1 rs2 : Reg) : CleanFields.Statement (.sqrtmod rd rs1 rs2) :=
  ⟨.sqrtmod, ofCode_code .sqrtmod, by
    simp [Instr.fields, Fields.unusedZero, Op.bare, Op.format, Format.uses, Op.flReserved,
      Op.immReserved]⟩

theorem CleanFields.randbits (rd : Reg) (odd : Bool) (n : BitVec 32) : CleanFields.Statement (.randbits rd odd n) :=
  ⟨.randbits, ofCode_code .randbits, by
    simp [Instr.fields, Fields.unusedZero, Op.bare, Op.format, Format.uses, Op.flReserved,
      Op.immReserved]⟩

theorem CleanFields.randrange (rd rs1 rs2 : Reg) : CleanFields.Statement (.randrange rd rs1 rs2) :=
  ⟨.randrange, ofCode_code .randrange, by
    simp [Instr.fields, Fields.unusedZero, Op.bare, Op.format, Format.uses, Op.flReserved,
      Op.immReserved]⟩

theorem CleanFields.randbytes (nz : Bool) : CleanFields.Statement (.randbytes nz) :=
  ⟨.randbytes, ofCode_code .randbytes, by
    simp [Instr.fields, Fields.unusedZero, Op.bare, Op.format, Format.uses, Op.flReserved,
      Op.immReserved]⟩

theorem CleanFields.mrtest (rs1 : Reg) (td : Bool) (k : BitVec 32) : CleanFields.Statement (.mrtest rs1 td k) :=
  ⟨.mrtest, ofCode_code .mrtest, by
    simp [Instr.fields, Fields.unusedZero, Op.bare, Op.format, Format.uses, Op.flReserved,
      Op.immReserved]⟩

theorem CleanFields.primegen (rd : Reg) (bits rounds : BitVec 16) : CleanFields.Statement (.primegen rd bits rounds) :=
  ⟨.primegen, ofCode_code .primegen, by
    simp [Instr.fields, Fields.unusedZero, Op.bare, Op.format, Format.uses, Op.flReserved,
      Op.immReserved]⟩

theorem CleanFields.aesblk (dec : Bool) (keylen : BitVec 32) : CleanFields.Statement (.aesblk dec keylen) :=
  ⟨.aesblk, ofCode_code .aesblk, by
    simp [Instr.fields, Fields.unusedZero, Op.bare, Op.format, Format.uses, Op.flReserved,
      Op.immReserved]⟩

theorem CleanFields.aesencs (k : CtxIx) (mode : Mode) (keylen : BitVec 32) : CleanFields.Statement (.aesencs k mode keylen) :=
  ⟨.aesencs, ofCode_code .aesencs, by
    simp [Instr.fields, Fields.unusedZero, Op.bare, Op.format, Format.uses, Op.flReserved,
      Op.immReserved]⟩

theorem CleanFields.aesencc (k : CtxIx) : CleanFields.Statement (.aesencc k) :=
  ⟨.aesencc, ofCode_code .aesencc, by
    simp [Instr.fields, Fields.unusedZero, Op.bare, Op.format, Format.uses, Op.flReserved,
      Op.immReserved]⟩

theorem CleanFields.aesdecs (k : CtxIx) (mode : Mode) (keylen : BitVec 32) : CleanFields.Statement (.aesdecs k mode keylen) :=
  ⟨.aesdecs, ofCode_code .aesdecs, by
    simp [Instr.fields, Fields.unusedZero, Op.bare, Op.format, Format.uses, Op.flReserved,
      Op.immReserved]⟩

theorem CleanFields.aesdecc (k : CtxIx) : CleanFields.Statement (.aesdecc k) :=
  ⟨.aesdecc, ofCode_code .aesdecc, by
    simp [Instr.fields, Fields.unusedZero, Op.bare, Op.format, Format.uses, Op.flReserved,
      Op.immReserved]⟩

theorem CleanFields.aesclr (k : CtxIx) : CleanFields.Statement (.aesclr k) :=
  ⟨.aesclr, ofCode_code .aesclr, by
    simp [Instr.fields, Fields.unusedZero, Op.bare, Op.format, Format.uses, Op.flReserved,
      Op.immReserved]⟩

theorem CleanFields.aeslen (mode : Mode) (dir : Dir) (first : Bool) : CleanFields.Statement (.aeslen mode dir first) :=
  ⟨.aeslen, ofCode_code .aeslen, by
    simp [Instr.fields, Fields.unusedZero, Op.bare, Op.format, Format.uses, Op.flReserved,
      Op.immReserved]⟩

end Sys2Proof.Laws
end

