-- ==== Sys2Proof/Tests/Slice0.lean ====
section
/-! SUPPORT. The model's own tests. Expected words, values and bytes are those of the examples of the rules
and of 95_test_vectors.md; the section is named at each group. After them, for every obligation with
hypotheses, one theorem that shows values which meet them. -/

namespace Sys2Proof.Tests

open Sys2Proof Sys2Proof.Machine

-- One kernel evaluation at a time: in parallel, a hundred of them exhaust the threads.
set_option Elab.async false

/-! ## Helpers -/

/-- A busy core after reset whose registers `b0, b1, …` hold `regs`, with the buffer and the latched
arguments given. -/
def cpu (regs : List Int) (buf : Memory := []) (args : Args := ⟨0, 0, 0, 0, 0⟩) : State :=
  { State.reset with regs := Vector.ofFn fun i => regs.getD i 0, buf := buf, seq := .busy 0 args }

/-- A buffer that holds just `bytes` at `a`. -/
def at' (a : Nat) (bytes : List Byte) : Memory := memWrite [] a bytes

/-- `n` bytes written as one hexadecimal number in buffer order. -/
def hex (v n : Nat) : List Byte := toBE v n

/-- What `f` reads from the next state, if there is one. -/
def after {α : Type} (o : Host.Outcome State Fault Refusal) (f : State → α) : Option α :=
  match o with
  | .next t => some (f t)
  | _ => none

theorem exists_next {o : Host.Outcome State Fault Refusal} {p : State → Bool}
    (h : after o p = some true) : ∃ t, o = .next t ∧ p t = true := by
  cases o with
  | next t => exact ⟨t, rfl, by simpa [after] using h⟩
  | fault f => simp [after] at h
  | refused r => simp [after] at h

/-- The value of a computation that may raise. -/
def value {α : Type} (r : Except ErrCode α) : Option α :=
  match r with
  | .ok x => some x
  | .error _ => none

/-! ## Decoding: words written out from R158, with the examples of the rules -/

theorem test_decode_basic :
    decode 0x0000000000000000 = .ok .nop ∧
    decode 0xFFFFFFFB00000001 = .ok (.bseti 0 0xFFFFFFFB) ∧
    decode 0x0000000000000102 = .ok (.bmov 1 0) ∧
    decode 0x0000000000000103 = .ok (.bneg 1 0) ∧
    decode 0x0000000000010204 = .ok (.badd 2 0 1) ∧
    decode 0x0000000000010205 = .ok (.bsub 2 0 1) ∧
    decode 0x0000000000010206 = .ok (.bmul 2 0 1) ∧
    decode 0x0000000003010207 = .ok (.bdivrem 2 3 0 1) ∧
    decode 0x0000000000010208 = .ok (.bmod 2 0 1) ∧
    decode 0x000000000009B009 = .ok (.bcmp 11 9) ∧
    decode 0x000000400000010A = .ok (.bshl 1 0 64) ∧
    decode 0x000000010000010B = .ok (.bshr 1 0 1) ∧
    decode 0x000000000000000C = .ok (.bbitlen 0) := by decide +kernel

theorem test_decode_conversion :
    decode 0x0000000010000010 = .ok (.bload 0 true false) ∧
    decode 0x0000000020000010 = .ok (.bload 0 false true) ∧
    decode 0x0000000010000011 = .ok (.bstore 0 true) ∧
    decode 0x0000000000000512 = .ok (.bfromdec 5) ∧
    decode 0x0000000000005013 = .ok (.btodec 5) := by decide +kernel

theorem test_decode_modular :
    decode 0x0000000000586920 = .ok (.bmodmul 9 6 8 5) ∧
    decode 0x000000000028AB21 = .ok (.bmodexp 11 10 8 2) ∧
    decode 0x0000000000010222 = .ok (.bgcd 2 0 1) ∧
    decode 0x0000000003410223 = .ok (.bextgcd 2 3 4 0 1) ∧
    decode 0x0000000000056824 = .ok (.bmodinv 8 6 5) ∧
    decode 0x0000000000010025 = .ok (.qrtest 0 1) ∧
    decode 0x0000000000014626 = .ok (.sqrtmod 6 4 1) := by decide +kernel

theorem test_decode_random :
    decode 0x0000000810000030 = .ok (.randbits 0 true 8) ∧
    decode 0x0000000000010231 = .ok (.randrange 2 0 1) ∧
    decode 0x0000000010000032 = .ok (.randbytes true) ∧
    decode 0x0000002810000033 = .ok (.mrtest 0 true 40) ∧
    decode 0x0028020000000134 = .ok (.primegen 1 512 40) := by decide +kernel

theorem test_decode_aes :
    decode 0x0000001010000040 = .ok (.aesblk true 16) ∧
    decode 0x0000001010000041 = .ok (.aesencs 0 .cbc 16) ∧
    decode 0x0000001040000041 = .ok (.aesencs 0 .ctr 16) ∧
    decode 0x0000000000000242 = .ok (.aesencc 2) ∧
    decode 0x0000001010000143 = .ok (.aesdecs 1 .cbc 16) ∧
    decode 0x0000000000000144 = .ok (.aesdecc 1) ∧
    decode 0x0000000000000345 = .ok (.aesclr 3) ∧
    decode 0x0000000310000046 = .ok (.aeslen .cbc .dec true) ∧
    decode 0x0000000040000046 = .ok (.aeslen .ctr .enc false) := by decide +kernel

/-- The IllegalCommand rows of 95_test_vectors.md section 2.1, with the reason the decoder gives. -/
theorem test_decode_illegal :
    decode 0x0000000100000000 = .error .unusedField ∧
    decode 0x000000000000000D = .error .reservedOpcode ∧
    decode 0x0000000000000047 = .error .reservedOpcode ∧
    decode 0xFFFFFFFFFFFFFFFF = .error .reservedOpcode ∧
    decode 0x0000000500001001 = .error .unusedField ∧
    decode 0x0000000040000010 = .error .unusedField ∧
    decode 0x0000000000121004 = .error .unusedField ∧
    decode 0x0000000610000046 = .error .unusedField ∧
    decode 0x0000000270000046 = .error .reservedMode ∧
    decode 0x0000001050000041 = .error .reservedMode ∧
    decode 0x0000000010000042 = .error .unusedField ∧
    decode 0x0000001000000F41 = .error .indexRange ∧
    decode 0x0000000000000845 = .error .indexRange ∧
    decode 0x0000000002010207 = .error .sameDestination ∧
    decode 0x0000000002410223 = .error .sameDestination := by decide +kernel

/-- The example of R158, and one word with every field in use. -/
theorem test_encode :
    encode (.badd 2 0 1) = 0x0000000000010204 ∧
    encode (.bextgcd 2 3 4 0 1) = 0x0000000003410223 ∧
    encode (.primegen 1 512 40) = 0x0028020000000134 ∧
    encode (.aesdecs 1 .cbc 16) = 0x0000001010000143 := by decide +kernel

theorem test_table_word :
    decodeTableWord 64 0x0000000000010204 = some (.badd 2 0 1) ∧
    decodeTableWord 8 0xFF00 = some .nop ∧ decodeTableWord 64 0x0D = none := by decide +kernel

/-! ## Well-formedness refuses an ill-formed term for each check (R159) -/

theorem test_wellFormed_bdivrem : (Instr.bdivrem 2 2 0 1).wellFormed = false := by decide
theorem test_wellFormed_bextgcd :
    (Instr.bextgcd 2 2 4 0 1).wellFormed = false ∧ (Instr.bextgcd 2 3 2 0 1).wellFormed = false ∧
      (Instr.bextgcd 2 3 3 0 1).wellFormed = false := by decide

/-! ## Basic arithmetic (95_test_vectors.md section 2.2) -/

theorem test_nop : after (exec .nop { cpu [] with res0 := 7 })
    (fun t => (t.res0, t.done, t.errcode)) = some (0, true, 0) := by decide +kernel
theorem test_bseti : after (exec (.bseti 0 0x80000000) (cpu [])) (·.reg 0) = some (-2147483648) := by
  decide +kernel
theorem test_bmov : after (exec (.bmov 1 0) (cpu [-9])) (fun t => (t.reg 0, t.reg 1)) =
    some (-9, -9) := by decide +kernel
theorem test_bneg_largest : after (exec (.bneg 1 0) (cpu [-(2 ^ 8192 - 1)]))
    (fun t => decide (t.reg 1 = 2 ^ 8192 - 1)) = some true := by decide +kernel
theorem test_badd_capacity : after (exec (.badd 2 0 1) (cpu [2 ^ 8192 - 1, 1, 3]))
    (fun t => (t.reg 2, t.errcode)) = some (3, 9) := by decide +kernel
theorem test_bsub : after (exec (.bsub 0 0 1) (cpu [-5, 3])) (·.reg 0) = some (-8) := by decide +kernel
theorem test_bmul_fits : after (exec (.bmul 2 0 1) (cpu [2 ^ 4096 - 1, 2 ^ 4096 - 1]))
    (fun t => decide (t.reg 2 = 2 ^ 8192 - 2 ^ 4097 + 1)) = some true := by decide +kernel
theorem test_bmul_exactly_cap : after (exec (.bmul 2 0 1) (cpu [2 ^ 4096, 2 ^ 4096])) (·.errcode) =
    some 9 := by decide +kernel
theorem test_bdivrem_signs : after (exec (.bdivrem 2 3 0 1) (cpu [-7, 2]))
    (fun t => (t.reg 2, t.reg 3)) = some (-3, -1) ∧
    after (exec (.bdivrem 2 3 0 1) (cpu [7, -2])) (fun t => (t.reg 2, t.reg 3)) = some (-3, 1) := by
  decide +kernel
theorem test_bdivrem_sources_first : after (exec (.bdivrem 0 1 0 1) (cpu [100, 7]))
    (fun t => (t.reg 0, t.reg 1)) = some (14, 2) := by decide +kernel
theorem test_bmod : after (exec (.bmod 2 0 1) (cpu [-12, 5])) (·.reg 2) = some 3 := by decide +kernel
theorem test_bmod_errors : after (exec (.bmod 2 0 1) (cpu [7, 0])) (·.errcode) = some 2 ∧
    after (exec (.bmod 2 0 1) (cpu [7, -2])) (·.errcode) = some 12 := by decide +kernel
theorem test_bcmp : after (exec (.bcmp 0 1) (cpu [-5, 3])) (·.res0) = some 0xFFFFFFFFFFFFFFFF ∧
    after (exec (.bcmp 0 1) (cpu [-1, -2])) (·.res0) = some 1 := by decide +kernel
theorem test_bshl : after (exec (.bshl 1 0 4) (cpu [-3])) (·.reg 1) = some (-48) ∧
    after (exec (.bshl 1 0 0xFFFFFFFF) (cpu [0])) (fun t => (t.reg 1, t.errcode)) = some (0, 0) := by
  decide +kernel
theorem test_bshl_bound : after (exec (.bshl 1 0 8192) (cpu [1])) (·.errcode) = some 9 ∧
    after (exec (.bshl 1 0 8191) (cpu [1])) (fun t => decide (t.reg 1 = 2 ^ 8191)) = some true := by
  decide +kernel
theorem test_bshr : after (exec (.bshr 1 0 1) (cpu [-5])) (·.reg 1) = some (-2) ∧
    after (exec (.bshr 1 0 3) (cpu [-17])) (·.reg 1) = some (-2) := by decide +kernel
theorem test_bbitlen : after (exec (.bbitlen 0) (cpu [-256])) (fun t => (t.res0, t.res1)) =
    some (9, 1) ∧
    after (exec (.bbitlen 0) (cpu [2 ^ 8192 - 1])) (fun t => (t.res0, t.res1)) = some (8192, 0) := by
  decide +kernel

/-! ## Conversion (section 2.3) -/

theorem test_bload_byte_order :
    after (exec (.bload 0 false false) (cpu [] (at' 0 [1, 0]) ⟨0, 2, 0, 0, 0⟩)) (·.reg 0) = some 256 ∧
    after (exec (.bload 0 true true) (cpu [] (at' 0 [1, 0]) ⟨0, 2, 0, 0, 0⟩)) (·.reg 0) = some (-1) := by
  decide +kernel
theorem test_bload_errors :
    after (exec (.bload 0 false false) (cpu [] [] ⟨0x10000, 0, 0, 0, 0⟩)) (·.errcode) = some 6 ∧
    after (exec (.bload 0 false false) (cpu [] [] ⟨0xFFFFFFFFFFFFFFFF, 1, 0, 0, 0⟩)) (·.errcode) =
      some 10 := by decide +kernel
theorem test_bstore_byte_order :
    after (exec (.bstore 0 false) (cpu [-256] [] ⟨0x10, 4, 0, 0, 0⟩))
      (fun t => (t.buf, t.res0, t.res1)) =
        some ([(0x10, 0), (0x11, 0), (0x12, 1), (0x13, 0)], 2, 1) ∧
    after (exec (.bstore 0 true) (cpu [-256] [] ⟨0x10, 4, 0, 0, 0⟩)) (·.buf) =
        some [(0x10, 0), (0x11, 1), (0x12, 0), (0x13, 0)] := by decide +kernel
theorem test_bstore_too_small :
    after (exec (.bstore 0 false) (cpu [256] [] ⟨0x10, 1, 0, 0, 0⟩)) (fun t => (t.buf, t.errcode)) =
      some ([], 5) := by decide +kernel
theorem test_bfromdec :
    after (exec (.bfromdec 5) (cpu [] (at' 0 [0x2D, 0x34, 0x32]) ⟨0, 3, 0, 0, 0⟩)) (·.reg 5) =
      some (-42) := by decide +kernel
theorem test_bfromdec_grammar :
    after (exec (.bfromdec 0) (cpu [] (at' 0 [0x2D]) ⟨0, 1, 0, 0, 0⟩)) (·.errcode) = some 13 ∧
    after (exec (.bfromdec 0) (cpu [] (at' 0 [0x2B, 0x35]) ⟨0, 2, 0, 0, 0⟩)) (·.errcode) = some 13 ∧
    after (exec (.bfromdec 0) (cpu [] (at' 0 [0x31, 0x32, 0]) ⟨0, 3, 0, 0, 0⟩)) (·.errcode) =
      some 13 := by decide +kernel
theorem test_btodec : after (exec (.btodec 0) (cpu [-42] (at' 0x33 [9]) ⟨0x30, 8, 0, 0, 0⟩))
    (fun t => (t.buf, t.res0)) = some ([(0x30, 0x2D), (0x31, 0x34), (0x32, 0x32), (0x33, 9)], 3) := by
  decide +kernel
theorem test_btodec_zero : after (exec (.btodec 0) (cpu [0] [] ⟨0x30, 4, 0, 0, 0⟩))
    (fun t => (t.buf, t.res0)) = some ([(0x30, 0x30)], 1) := by decide +kernel

/-! ## Modular arithmetic (section 2.4) -/

theorem test_bmodmul_beyond_cap :
    after (exec (.bmodmul 3 0 1 2) (cpu [2 ^ 8191, 2 ^ 8191, 2 ^ 61 - 1])) (·.reg 3) =
      some 17179869184 := by decide +kernel
theorem test_bmodmul_errors : after (exec (.bmodmul 3 0 1 2) (cpu [3, 4, 0])) (·.errcode) = some 2 ∧
    after (exec (.bmodmul 3 0 1 2) (cpu [3, 4, -5])) (·.errcode) = some 12 := by decide +kernel
theorem test_bmodexp :
    after (exec (.bmodexp 3 0 1 2) (cpu [3, 200, 2 ^ 64])) (·.reg 3) = some 6627890308811632801 ∧
    after (exec (.bmodexp 3 0 1 2) (cpu [-2, 3, 5])) (·.reg 3) = some 2 := by decide +kernel
theorem test_bmodexp_corners : after (exec (.bmodexp 3 0 1 2) (cpu [0, 0, 7])) (·.reg 3) = some 1 ∧
    after (exec (.bmodexp 3 0 1 2) (cpu [5, 0, 1])) (·.reg 3) = some 0 ∧
    after (exec (.bmodexp 3 0 1 2) (cpu [2, -1, 5])) (·.errcode) = some 12 := by decide +kernel
theorem test_bgcd : after (exec (.bgcd 2 0 1) (cpu [-12, 18])) (·.reg 2) = some 6 ∧
    after (exec (.bgcd 2 0 1) (cpu [0, -5])) (·.reg 2) = some 5 := by decide +kernel
theorem test_bextgcd : after (exec (.bextgcd 2 3 4 0 1) (cpu [-240, 46]))
    (fun t => (t.reg 2, t.reg 3, t.reg 4)) = some (2, 9, 47) := by decide +kernel
theorem test_bextgcd_sources_first : after (exec (.bextgcd 0 1 2 0 1) (cpu [99, 78]))
    (fun t => (t.reg 0, t.reg 1, t.reg 2)) = some (3, -11, 14) := by decide +kernel
theorem test_bmodinv : after (exec (.bmodinv 2 0 1) (cpu [17, 3120])) (·.reg 2) = some 2753 ∧
    after (exec (.bmodinv 2 0 1) (cpu [-3, 11])) (·.reg 2) = some 7 := by decide +kernel
theorem test_bmodinv_errors : after (exec (.bmodinv 2 0 1) (cpu [6, 9])) (·.errcode) = some 3 ∧
    after (exec (.bmodinv 2 0 1) (cpu [5, 1])) (·.reg 2) = some 0 := by decide +kernel
theorem test_qrtest : after (exec (.qrtest 0 1) (cpu [-1, 7])) (·.res0) = some 0xFFFFFFFFFFFFFFFF ∧
    after (exec (.qrtest 0 1) (cpu [14, 7])) (·.res0) = some 0 := by decide +kernel
theorem test_qrtest_composite : after (exec (.qrtest 0 1) (cpu [2, 9])) (·.errcode) = some 8 ∧
    after (exec (.qrtest 0 1) (cpu [1, 561])) (·.res0) = some 1 := by decide +kernel
theorem test_sqrtmod_pinned_roots :
    after (exec (.sqrtmod 2 0 1) (cpu [9, 17])) (fun t => (t.reg 2, t.res0, t.res1)) =
      some (14, 1, 2) ∧
    after (exec (.sqrtmod 2 0 1) (cpu [16, 41])) (fun t => (t.reg 2, t.res0, t.res1)) =
      some (37, 1, 2) ∧
    after (exec (.sqrtmod 2 0 1) (cpu [2, 7])) (fun t => (t.reg 2, t.res0, t.res1)) =
      some (4, 1, 1) := by decide +kernel
theorem test_sqrtmod_wide : after (exec (.sqrtmod 2 0 1) (cpu [4, 2 ^ 255 - 19]))
    (fun t => (decide (t.reg 2 = 2 ^ 255 - 21), t.res0, t.res1)) = some (true, 1, 2) ∧
    after (exec (.sqrtmod 2 0 1) (cpu [4, 15])) (·.errcode) = some 8 ∧
    after (exec (.sqrtmod 2 0 1) (cpu [3, 7, 9])) (fun t => (t.reg 2, t.res0, t.res1, t.errcode)) =
      some (0, 0, 0, 0) := by decide +kernel

/-! ## Random generation and primality (section 2.5), on the supplies of draws the rows list -/

/-- A supply of the listed values, the value of a uniform draw from `lo` being `v - lo`. -/
def supply (vs : List Nat) : Source := fun i => vs[i]?

theorem test_randbits_values :
    value (randbitsValue (supply [0x34]) 0 8 true) = some 181 ∧
    value (randbitsValue (supply [0x35]) 0 8 true) = some 181 ∧
    value (randbitsValue (supply [1]) 0 2 false) = some 3 ∧
    value (randbitsValue (supply []) 0 8 false) = none := by decide +kernel
theorem test_randbits_without_draw :
    after (exec (.randbits 0 true 1) (cpu [])) (fun t => (t.reg 0, t.draws)) = some (1, 0) ∧
    after (exec (.randbits 0 true 0) (cpu [])) (·.errcode) = some 12 ∧
    after (exec (.randbits 0 false 8193) (cpu [])) (·.errcode) = some 9 := by decide +kernel
theorem test_randrange_value : value (drawUniform (supply [6]) 0 (-10) (-3)) = some (-4) := by
  decide +kernel
theorem test_randrange_domain : after (exec (.randrange 2 0 1) (cpu [6, 5])) (·.errcode) = some 12 := by
  decide +kernel
theorem test_randbytes_values :
    value (randomBytes (supply [0 + 255 * (0xFE + 255 * 0x79)]) 0 3 true) = some [0x01, 0xFF, 0x7A] := by
  decide +kernel
theorem test_randbytes_without_draw :
    after (exec (.randbytes false) (cpu [] [] ⟨0x10, 0, 0, 0, 0⟩)) (fun t => (t.buf, t.errcode)) =
      some ([], 0) ∧
    after (exec (.randbytes false) (cpu [] [] ⟨0xFFF0, 17, 0, 0, 0⟩)) (·.errcode) = some 10 := by
  decide +kernel
theorem test_mrtest_draws :
    value (millerRabin (supply [172]) 0 221 1 false).1 = some true ∧
    value (millerRabin (supply [135]) 0 221 1 false).1 = some false ∧
    value (millerRabin (supply [172, 135]) 0 221 2 false).1 = some false ∧
    value (millerRabin (supply [1]) 0 (2 ^ 61 - 1) 1 false).1 = some true := by decide +kernel
theorem test_mrtest_without_draw :
    after (exec (.mrtest 0 true 1) (cpu [221])) (fun t => (t.res0, t.draws)) = some (0, 0) ∧
    after (exec (.mrtest 0 true 1) (cpu [997])) (fun t => (t.res0, t.draws)) = some (1, 0) ∧
    after (exec (.mrtest 0 false 1) (cpu [-7])) (·.res0) = some 0 := by decide +kernel
theorem test_primegen_search :
    (primegenSearch (supply [0, 2, 0]) 0 16 1).2 = 3 ∧
    value (primegenSearch (supply [0, 2, 0]) 0 16 1).1 = some (32771, 2) := by decide +kernel
theorem test_primegen_errors :
    after (exec (.primegen 0 1 1) (cpu [])) (·.errcode) = some 12 ∧
    after (exec (.primegen 0 8193 1) (cpu [])) (·.errcode) = some 9 := by decide +kernel

/-! ## AES (sections 2.6, 2.7 and 3.1, R466) -/

/-- The S-box table follows from its algebraic definition in R401: `u`, which the affine map takes to
`SBOX[v]`, is the inverse of `v`, or 0 for `v = 0`. -/
theorem test_sbox :
    (List.range 256).all (fun n =>
      let v : Byte := .ofNat 8 n
      let b := sbox v
      let u := b.rotateLeft 1 ^^^ b.rotateLeft 3 ^^^ b.rotateLeft 6 ^^^ 0x05
      b == u ^^^ u.rotateLeft 1 ^^^ u.rotateLeft 2 ^^^ u.rotateLeft 3 ^^^ u.rotateLeft 4 ^^^ 0x63
        && (if n = 0 then u == 0 else gmul v u == 1)) = true := by decide +kernel
theorem test_invSbox : (List.range 256).all (fun v => invSbox (sbox (.ofNat 8 v)) == .ofNat 8 v) = true := by
  decide +kernel

theorem test_keyExpansion :
    let w128 := keyExpansion (hex 0x2b7e151628aed2a6abf7158809cf4f3c 16)
    let w192 := keyExpansion (hex 0x8e73b0f7da0e6452c810f32b809079e562f8ead2522c6b7b 24)
    let w256 := keyExpansion
      (hex 0x603deb1015ca71be2b73aef0857d77811f352c073b6108d72d9810a30914dff4 32)
    w128[4]? = some ⟨0xa0, 0xfa, 0xfe, 0x17⟩ ∧ w128[43]? = some ⟨0xb6, 0x63, 0x0c, 0xa6⟩ ∧
    w192[51]? = some ⟨0x01, 0x00, 0x22, 0x02⟩ ∧ w256[12]? = some ⟨0xa8, 0xb0, 0x9c, 0x1a⟩ ∧
    w256[59]? = some ⟨0x70, 0x6c, 0x63, 0x1e⟩ := by decide +kernel

/-- The sequence of bytes `0, 1, …`. -/
def counting (n : Nat) : List Byte := (List.range n).map (.ofNat 8)

theorem test_aesblk_fips197 :
    after (exec (.aesblk false 24) (cpu [] (memWrite (at' 0 (counting 24)) 0x20
        (hex 0x00112233445566778899aabbccddeeff 16)) ⟨0x20, 0, 0x30, 0, 0⟩))
      (fun t => beValue ((t.buf.filter fun c => 0x30 ≤ c.1).map Prod.snd)) =
        some 0xdda97ca4864cdfe06eaf70a0ec0d7191 := by decide +kernel
theorem test_aesblk_dec_in_place :
    after (exec (.aesblk true 16) (cpu [] (memWrite (at' 0 (counting 16)) 0x10
        (hex 0x69c4e0d86a7b0430d8cdb78070b4c55a 16)) ⟨0x10, 0, 0x10, 0, 0⟩))
      (fun t => beValue ((t.buf.filter fun c => 0x10 ≤ c.1).map Prod.snd)) =
        some 0x00112233445566778899aabbccddeeff := by decide +kernel

/-- The key K of section 2.7. -/
def keyK : List Byte := hex 0x2b7e151628aed2a6abf7158809cf4f3c 16

/-- The plaintext P of section 2.7. -/
def textP : List Byte := hex 0x6bc1bee22e409f96e93d7e117393172a 16

/-- The IV draw 00 01 … 0f. -/
def iv0 : Block := Block.ofBytes (counting 16)

/-- The rows of R466: output and feedback of one chunk P, then of a chunk "abc". -/
theorem test_modes_cbc_cfb :
    (encryptChunk .cbc keyK iv0 textP).1 =
      hex 0x7649abac8119b246cee98e9b12e9197d8964e0b149c10b7b682e6e39aaeb731c 32 ∧
    (encryptChunk .cbc keyK (encryptChunk .cbc keyK iv0 textP).2 [0x61, 0x62, 0x63]).1 =
      hex 0x4193b2b3d681700ba280adbda14b0582 16 ∧
    (encryptChunk .cfb keyK iv0 textP).1 =
      hex 0x3b3fd92eb72dad20333449f8e83cfb4a769bdf70aea015b34344b211caa37bca 32 ∧
    (encryptChunk .cfb keyK (encryptChunk .cfb keyK iv0 textP).2 [0x61, 0x62, 0x63]).1 =
      hex 0x53894ce6e368c4f2ed3725fc599a1f1b 16 := by decide +kernel
theorem test_modes_ofb_ctr :
    (encryptChunk .ofb keyK iv0 textP).1 =
      hex 0x3b3fd92eb72dad20333449f8e83cfb4ac9b4caca1882338f7b9b2d6690f14664 32 ∧
    (encryptChunk .ofb keyK iv0 textP).2.toBytes = hex 0xd9a4dada0892239f6b8b3d7680e15674 16 ∧
    (encryptChunk .ctr keyK iv0 textP).1 =
      hex 0x3b3fd92eb72dad20333449f8e83cfb4abf319e5e97f383baca215bf46be7b34f 32 ∧
    (encryptChunk .ctr keyK iv0 textP).2.toBytes = hex 0x000102030405060708090a0b0c0d0e11 16 := by
  decide +kernel
theorem test_ctrInc_wraps : ctrInc (Block.ofBytes (List.replicate 16 0xFF)) = .zero := by decide +kernel

/-- K at 0 and P at 0x100, with the arguments of a Start. -/
def startState (args : Args) : State := cpu [] (memWrite (at' 0 keyK) 0x100 textP) args

theorem test_aesencs_ecb :
    after (exec (.aesencs 0 .ecb 16) (startState ⟨0x100, 16, 0x200, 32, 0⟩)) (fun t =>
      (beValue ((t.buf.filter fun c => 0x200 ≤ c.1).map Prod.snd), t.res0, t.res1,
        (t.ctx 0).active)) =
      some (0x3ad77bb40d7a3660a89ecaf32466ef97a254be88e037ddd9d79fb6411c3f9df8, 32, 16, true) := by
  decide +kernel
theorem test_aesencs_cbc_drawn :
    value (((startState ⟨0x100, 16, 0x200, 48, 0⟩).encStart (supply [leValue (counting 16)]) 0 0 .cbc
      keyK textP).map fun t =>
        (beValue ((t.buf.filter fun c => 0x220 ≤ c.1).map Prod.snd), t.res0, t.res1)) =
      some (0x000102030405060708090a0b0c0d0e0f, 48, 16) ∧
    after (exec (.aesencs 0 .cbc 16) (startState ⟨0x100, 16, 0x200, 47, 0⟩)) (fun t =>
      (t.errcode, t.draws, (t.ctx 0).active)) = some (5, 0, false) := by decide +kernel

/-- A context in the middle of a CBC stream under K. -/
def cbcCtx (dir : Dir) : Ctx := ⟨true, dir, .cbc, 16, keyField keyK,
  Block.ofBytes (hex 0x8964e0b149c10b7b682e6e39aaeb731c 16)⟩

theorem test_aesencc :
    after (exec (.aesencc 0) ((cpu [] (at' 0 [0x61, 0x62, 0x63]) ⟨0, 3, 0x10, 16, 0⟩).setCtx 0
      (cbcCtx .enc))) (fun t =>
        (beValue ((t.buf.filter fun c => 0x10 ≤ c.1).map Prod.snd), t.res0, t.res1)) =
      some (0x4193b2b3d681700ba280adbda14b0582, 16, 13) := by decide +kernel
theorem test_aesencc_not_started :
    after (exec (.aesencc 0) (cpu [] [] ⟨0x100, 16, 0x200, 32, 0⟩)) (·.errcode) = some 11 ∧
    after (exec (.aesencc 0) ((cpu []).setCtx 0 (cbcCtx .dec))) (·.errcode) = some 11 := by
  decide +kernel

/-- K at 0 and the 48 bytes CT48 of section 2.7 at 0x100. -/
def ct48State (args : Args) : State :=
  cpu [] (memWrite (at' 0 keyK) 0x100 (hex 0x7649abac8119b246cee98e9b12e9197d8964e0b149c10b7b682e6e39aaeb731c000102030405060708090a0b0c0d0e0f 48))
    args

theorem test_aesdecs :
    after (exec (.aesdecs 1 .cbc 16) (ct48State ⟨0x100, 48, 0x200, 16, 0⟩)) (fun t =>
      (beValue ((t.buf.filter fun c => 0x200 ≤ c.1).map Prod.snd), t.res0, t.res1,
        beValue (t.ctx 1).fb.toBytes)) =
      some (0x6bc1bee22e409f96e93d7e117393172a, 16, 16, 0x8964e0b149c10b7b682e6e39aaeb731c) := by
  decide +kernel
theorem test_aesdecs_errors :
    after (exec (.aesdecs 1 .cbc 16) (ct48State ⟨0x100, 48, 0x200, 15, 0⟩)) (·.errcode) = some 5 ∧
    after (exec (.aesdecs 1 .cbc 16) (ct48State ⟨0x100, 40, 0x200, 48, 0⟩)) (·.errcode) = some 7 ∧
    after (exec (.aesdecs 1 .cbc 16) (ct48State ⟨0x100, 16, 0x200, 48, 0⟩)) (·.errcode) = some 7 := by
  decide +kernel
theorem test_aesdecc :
    after (exec (.aesdecc 1) ((cpu [] (at' 0 (hex 0x4193b2b3d681700ba280adbda14b0582 16))
      ⟨0, 16, 0x10, 3, 0⟩).setCtx 1 (cbcCtx .dec))) (fun t =>
        (beValue ((t.buf.filter fun c => 0x10 ≤ c.1).map Prod.snd), t.res0, t.res1)) =
      some (0x616263, 3, 13) := by decide +kernel
theorem test_aesclr : after (exec (.aesclr 1) ((cpu []).setCtx 1 (cbcCtx .dec))) (·.ctx 1) =
    some Ctx.reset := by decide +kernel
theorem test_aeslen :
    after (exec (.aeslen .cbc .enc true) (cpu [] [] ⟨64, 0, 0, 0, 0⟩)) (·.res0) = some 96 ∧
    after (exec (.aeslen .cbc .dec true) (cpu [] [] ⟨10, 0, 0, 0, 0⟩)) (·.res0) = some 0 ∧
    after (exec (.aeslen .ctr .enc false) (cpu [] [] ⟨10, 0, 0, 0, 0⟩)) (·.res0) = some 16 := by
  decide +kernel

/-! ## The host port, the sequencer and reset (sections 2.8 and 2.9, program P5) -/

theorem test_status_after_illegal :
    after (step (State.reset.withFetchWord 64 0xFFFFFFFFFFFFFFFF)) (fun t =>
      (t.statusWord, t.cmdLast)) = some (0x10A, 0xFFFFFFFFFFFFFFFF) := by decide +kernel
theorem test_fetch_word :
    after (step (State.reset.withFetchWord 64 0x0000006400000001)) (fun t => (t.reg 0, t.statusWord)) =
      some (100, 0x2) := by decide +kernel
theorem test_status_write :
    after ({ State.reset with done := true, errcode := 1 }.hostAccess
      (.write 0x018 8 0xFFFFFFFFFFFFFFFF)) (·.statusWord) = some 0x108 := by decide +kernel
theorem test_busy_status_and_lockout :
    (cpu []).statusWord = 1 ∧
    after ((cpu []).hostAccess (.read 0x10000 8)) (·.resp) = some .error ∧
    after ((cpu []).hostAccess (.write 0x020 8 5)) (fun t => (t.statusWord, t.cmdLast)) =
      some (0x5, 0) := by decide +kernel
theorem test_narrow_register_access :
    after (State.reset.hostAccess (.read 0x018 4)) (·.resp) = some .error ∧
    after (State.reset.hostAccess (.write 0x020 4 0)) (·.statusWord) = some 0 := by decide +kernel
theorem test_window_write :
    after (State.reset.hostAccess (.write 0x10000 4 0x0807060504030201)) (·.buf) =
      some [(0, 1), (1, 2), (2, 3), (3, 4)] ∧
    after (State.reset.hostAccess (.read 0x10002 4)) (·.resp) = some .error := by decide +kernel
theorem test_window_read :
    after ({ State.reset with buf := [(2, 0x34), (3, 0x12)] }.hostAccess (.read 0x10002 2)) (·.resp) =
      some (.data 0x1234) := by decide +kernel
theorem test_unwritten_read_stops :
    (match step { cpu [] [] ⟨0, 2, 0, 0, 0⟩ with seq := .busy 0x10 ⟨0, 2, 0, 0, 0⟩ } with
      | .fault f => some f
      | _ => none) = some (.unwrittenRead .core 0) := by decide +kernel
theorem test_soft_reset :
    after ({ cpu [5] [(1, 2)] with irqEn := true }.hostAccess (.write 0x010 8 3)) (fun t =>
      (t.reg 0, t.irqEn, t.busy, t.buf)) = some (0, false, false, [(1, 2)]) := by decide +kernel
theorem test_events_order :
    after (step { State.reset with
      events := [.access (.write 0x020 8 0x0000006400000001), .complete] }) (fun t =>
        (t.busy, t.events)) = some (true, [.complete]) := by decide +kernel

/-! ## Witnesses: for every obligation with hypotheses, values that meet them, one for each clause -/

/-- A busy core that runs BSETI b0, 100. -/
def busyState : State :=
  { cpu [] with cmdLast := 0x0000006400000001, seq := .busy 0x0000006400000001 ⟨0, 0, 0, 0, 0⟩ }

theorem witness_ResetLeavesTheTableValues : (3 : Word).getLsbD 1 = true := by decide

theorem witness_EveryStepKeepsStatesLegal : ∃ s t : State, s.Legal ∧ step s = .next t ∧ t.done = true := by
  obtain ⟨t, h, hp⟩ := exists_next (o := step busyState) (p := (·.done)) (by decide +kernel)
  refine ⟨busyState, t, ⟨?_, ?_, ?_, ?_, ?_, ?_⟩, h, hp⟩
  · unfold State.RegsInRange; decide +kernel
  · intro k
    have h : busyState.ctx k = Ctx.reset := by fin_cases k <;> rfl
    rw [h]
    exact ⟨fun _ => rfl, fun h => absurd h (by decide)⟩
  · decide +kernel
  · decide +kernel
  · intro w a h
    cases h
    exact ⟨rfl, rfl, rfl⟩
  · intro h
    exact absurd h (by decide)

/-- A word that decodes and one that does not, with no event listed and with a completion next. -/
theorem witness_StepRunsTheDecodedCommand : ∃ (s s' u u' : State) (w v : Word) (a : Args) (i : Instr),
    (s.rst = false ∧ s.seq = .busy w a ∧ decode w = .ok i ∧ s.events = []) ∧
    (s'.rst = false ∧ s'.seq = .busy w a ∧ s'.events = .complete :: [.rstAssert]) ∧
    (u.rst = false ∧ u.seq = .busy v a ∧ (∀ i, decode v ≠ .ok i) ∧ u.events = []) ∧
    (u'.rst = false ∧ u'.seq = .busy v a ∧ u'.events = .complete :: []) := by
  have h : decode 0x47 = .error .reservedOpcode := by decide +kernel
  exact ⟨busyState, { busyState with events := [.complete, .rstAssert] },
    { busyState with seq := .busy 0x47 ⟨0, 0, 0, 0, 0⟩ },
    { busyState with seq := .busy 0x47 ⟨0, 0, 0, 0, 0⟩, events := [.complete] }, _, 0x47, _,
    .bseti 0 100, ⟨rfl, rfl, by decide +kernel, rfl⟩, ⟨rfl, rfl, rfl⟩,
    ⟨rfl, rfl, fun i e => (by rw [h] at e; cases e), rfl⟩, ⟨rfl, rfl, rfl⟩⟩

/-- One state for each clause: `rst` released, then asserted. -/
theorem witness_StepServesTheNextEvent : ∃ r h : List Event → State,
    (∀ es, (r es).rst = false ∧ (r es).seq = .idle ∧ (r es).events = es) ∧
    (∀ es, (h es).rst = true ∧ (h es).events = es) ∧
    (r [.access (.read 0 8)]).events = .access (.read 0 8) :: [] ∧
    (r [.rstAssert]).events = .rstAssert :: [] ∧ (r [.rstRelease]).events = .rstRelease :: [] ∧
    (r [.complete]).events = .complete :: [] ∧ (r []).events = [] ∧
    (h [.rstRelease]).events = .rstRelease :: [] ∧
    ((h [.access (.read 0 8)]).events = .access (.read 0 8) :: [] ∧ Event.rstRelease ∉ ([] : List Event)) ∧
    ((h [.access (.read 0 8), .rstRelease]).events = .access (.read 0 8) :: [.rstRelease] ∧
      Event.rstRelease ∈ [Event.rstRelease]) ∧
    (h [.complete]).events = .complete :: [] ∧ (h [.rstAssert]).events = .rstAssert :: [] ∧
    (h []).events = [] :=
  ⟨fun es => { State.reset with events := es }, fun es => { State.reset with rst := true, events := es },
    fun _ => ⟨rfl, rfl, rfl⟩, fun _ => ⟨rfl, rfl⟩, rfl, rfl, rfl, rfl, rfl, rfl, ⟨rfl, by decide⟩,
    ⟨rfl, by decide⟩, rfl, rfl, rfl⟩

theorem witness_ResetAbandonsTheRunningCommand : ∃ (s : State) (w : Word) (a : Args) (v : Word),
    s.seq = .busy w a ∧ v.getLsbD 1 = true := ⟨busyState, _, _, 2, rfl, by decide⟩

theorem witness_DecodeOfEncodeGivesTheInstruction :
    (Instr.bextgcd 15 0 1 15 15).wellFormed = true := by decide

theorem witness_EncodeOfDecodeGivesTheWord : ∃ (w : Word) (i : Instr), decode w = .ok i :=
  ⟨0x0000000003410223, .bextgcd 2 3 4 0 1, by decide +kernel⟩

/-- One word for each disjunct of the premise, and one that meets none: the decoder's own reasons. -/
theorem witness_IllegalCommandExactlyOnTheSixConditions : ∃ (s : State) (a : Args),
    s.seq = .busy 0x47 a ∧ decode 0x47 = .error .reservedOpcode ∧
    ((0x0000001050000041 : Word).extractLsb' 0 8 = 0x41 ∧
      5 ≤ ((0x0000001050000041 : Word).extractLsb' 28 3).toNat) ∧
    ((0x0000000002010207 : Word).extractLsb' 0 8 = 0x07 ∧
      (0x0000000002010207 : Word).extractLsb' 8 4 = (0x0000000002010207 : Word).extractLsb' 24 4) ∧
    ((0x0000000002410223 : Word).extractLsb' 0 8 = 0x23 ∧
      (0x0000000002410223 : Word).extractLsb' 8 4 = (0x0000000002410223 : Word).extractLsb' 24 4) ∧
    decode 0x0000000003410223 = .ok (.bextgcd 2 3 4 0 1) :=
  ⟨{ busyState with seq := .busy 0x47 ⟨0, 0, 0, 0, 0⟩ }, _, rfl, by decide +kernel⟩

theorem witness_CmdWriteLaunchesOrIsDropped : ∃ (s s' : State) (w : Word) (a : Args),
    s.seq = .idle ∧ s'.seq = .busy w a ∧ (4 : Nat) ≠ 8 := ⟨State.reset, busyState, _, _, rfl, rfl, by decide⟩

theorem witness_CtrlWriteEnablesOrResets :
    (1 : Word).getLsbD 1 = false ∧ (3 : Word).getLsbD 1 = true := by decide

theorem witness_IrqRisesAtCompletionAndFallsWhenCleared :
    (∃ t, exec .nop State.reset = .next t ∧ t.done = true) ∧ (2 : Word).getLsbD 1 = true ∧
    State.reset.seq = .idle := ⟨⟨_, rfl, rfl⟩, by decide, rfl⟩

theorem witness_ArgRegistersHoldAndAreLatched : ∃ (s t u : State) (w : Word) (a : Args) (v : Word),
    s.seq = .busy w a ∧ 0x048 ∈ [0x028, 0x030, 0x038, 0x040, 0x048] ∧
    s.hostAccess (.write 0x048 8 v) = .next t ∧ exec .nop s = .next u :=
  ⟨busyState, _, _, _, _, 7, rfl, by decide, rfl, rfl⟩

theorem witness_RegisterBlockTakesAlignedWordsOnly :
    (0x018 < 0x10000 ∧ ¬ (4 = 8 ∧ 0x018 % 8 = 0)) ∧ (0x019 < 0x10000 ∧ ¬ (8 = 8 ∧ 0x019 % 8 = 0)) ∧
    (0xFFF8 < 0x10000 ∧ 0xFFF8 % 8 = 0 ∧ 0x060 ≤ 0xFFF8) ∧ (0x058 % 8 = 0 ∧ 0x050 ≤ 0x058) := by decide

theorem witness_WindowTakesAlignedIdleAccessesOnly : busyState.seq ≠ .idle ∧
    (65534 < 65536 ∧ ¬ ((4 = 1 ∨ 4 = 2 ∨ 4 = 4 ∨ 4 = 8) ∧ 65534 % 4 = 0)) ∧
    (State.reset.seq = .idle ∧ 65528 < 65536 ∧ 65528 % 8 = 0) := by decide +kernel

theorem holds_of {s : State} {a : Nat} {bytes : List Byte}
    (h : memRead .core s.buf a bytes.length = .ok bytes) : s.Holds a bytes :=
  (read_eq_ok s rfl).1 (by simp [State.read, h])

theorem not_written_of {s : State} {a n : Nat} (hn : 0 < n) (h : memGet s.buf a = none) :
    ¬ s.Written a n := by
  intro hw
  obtain ⟨b, hb⟩ := hw a le_rfl (by omega)
  simp [h] at hb

theorem witness_WindowIsLittleEndian : ∃ s : State, Memory.wf s.buf ∧ s.seq = .idle ∧
    65528 < 65536 ∧ 65528 % 8 = 0 ∧ s.Holds 65528 [1, 2, 3, 4, 5, 6, 7, 8] ∧ ¬ s.Written 0 1 :=
  ⟨{ State.reset with buf := at' 65528 [1, 2, 3, 4, 5, 6, 7, 8] }, by decide +kernel, rfl, by decide,
    by decide, holds_of (by decide +kernel), not_written_of (by decide) (by decide +kernel)⟩

theorem witness_HostReadsChangeNothing :
    (∃ t, State.reset.hostAccess (.read 0x018 8) = .next t ∧ t.resp = .data 0) ∧ 0x20000 ≤ 0x20000 := by
  refine ⟨?_, le_rfl⟩
  obtain ⟨t, h, hp⟩ := exists_next (o := State.reset.hostAccess (.read 0x018 8))
    (p := fun t => t.resp == .data 0) (by decide +kernel)
  exact ⟨t, h, by simpa using hp⟩

theorem witness_EveryCompletionKeepsTheHostRegisters :
    ∃ t, exec (.bseti 0 5) busyState = .next t ∧ t.reg 0 = 5 := by
  obtain ⟨t, h, hp⟩ := exists_next (o := exec (.bseti 0 5) busyState) (p := fun t => t.reg 0 == 5)
    (by decide +kernel)
  exact ⟨t, h, by simpa using hp⟩

theorem witness_ErrorsChangeNothingElse :
    ∃ t, exec (.bdivrem 2 3 0 1) (cpu [5, 0]) = .next t ∧ t.errcode ≠ 0 := by
  obtain ⟨t, h, hp⟩ := exists_next (o := exec (.bdivrem 2 3 0 1) (cpu [5, 0]))
    (p := fun t => t.errcode != 0) (by decide +kernel)
  exact ⟨t, h, by simpa using hp⟩

/-- A command that faults; then, for each command that reads, operands that pass its checks and an
unwritten byte in a range it reads, the ranges up to the buffer's end where they may be. -/
theorem witness_OnlyUnwrittenReadsStopACommand :
    (∃ f, exec (.bload 0 false false) (cpu [] [] ⟨0, 2, 0, 0, 0⟩) = .fault f) ∧
    (65534 + 2 ≤ 65536 ∧ ¬ (cpu [] [] ⟨65534, 2, 0, 0, 0⟩).Written 65534 2) ∧
    (let s := cpu [] (at' 0 keyK) ⟨0xFFF0, 0, 0xFFF0, 0, 0⟩;
      s.Holds 0 keyK ∧ s.latched.arg0.toNat + 16 = 65536 ∧
      ¬ s.Written s.latched.arg0.toNat 16) ∧
    (let s := cpu [] [] ⟨0x100, 16, 0x200, 32, 0⟩;
      16 * (s.latched.arg1.toNat / 16 + 1) + 0 ≤ s.latched.arg3.toNat ∧ ¬ s.Written 0 16) ∧
    (let s := (cpu [] [] ⟨0, 3, 0x10, 16, 0⟩).setCtx 0 (cbcCtx .enc);
      ((s.ctx 0).active = true ∧ (s.ctx 0).dir = .enc) ∧
      16 * (s.latched.arg1.toNat / 16 + 1) ≤ s.latched.arg3.toNat ∧ ¬ s.Written 0 3) ∧
    (let s := cpu [] [] ⟨0x100, 32, 0x200, 0, 0⟩;
      s.latched.arg1.toNat % 16 = 0 ∧ 16 + 16 ≤ s.latched.arg1.toNat ∧ ¬ s.Written 0 16) ∧
    (let s := (cpu [] [] ⟨0, 16, 0x10, 0, 0⟩).setCtx 0 (cbcCtx .dec);
      ((s.ctx 0).active = true ∧ (s.ctx 0).dir = .dec) ∧ s.latched.arg1.toNat % 16 = 0 ∧
      ¬ s.Written 0 16) :=
  ⟨⟨_, rfl⟩, ⟨by decide, not_written_of (by decide) (by decide +kernel)⟩,
    ⟨holds_of (by decide +kernel), by decide +kernel, not_written_of (by decide) (by decide +kernel)⟩,
    ⟨by decide +kernel, not_written_of (by decide) (by decide +kernel)⟩,
    ⟨by decide +kernel, by decide +kernel, not_written_of (by decide) (by decide +kernel)⟩,
    ⟨by decide +kernel, by decide +kernel, not_written_of (by decide) (by decide +kernel)⟩,
    ⟨by decide +kernel, by decide +kernel, not_written_of (by decide) (by decide +kernel)⟩⟩

/-- A register, a context and a byte that change. -/
theorem witness_CommandsTouchOnlyTheirDestinations :
    (∃ t, exec (.bseti 0 5) (cpu []) = .next t ∧ t.reg 0 ≠ (cpu []).reg 0) ∧
    (∃ s t, Memory.wf s.buf ∧ exec (.aesclr 1) s = .next t ∧ t.ctx 1 ≠ s.ctx 1) ∧
    (∃ s t, Memory.wf s.buf ∧ exec (.bstore 0 true) s = .next t ∧ memGet t.buf 3 ≠ memGet s.buf 3) := by
  refine ⟨?_, ⟨(cpu []).setCtx 1 (cbcCtx .enc), ?_⟩, ⟨cpu [7] [] ⟨3, 1, 0, 0, 0⟩, ?_⟩⟩
  · obtain ⟨t, h, hp⟩ := exists_next (o := exec (.bseti 0 5) (cpu []))
      (p := fun t => t.reg 0 != (cpu []).reg 0) (by decide +kernel)
    exact ⟨t, h, by simpa using hp⟩
  · obtain ⟨t, h, hp⟩ := exists_next (o := exec (.aesclr 1) ((cpu []).setCtx 1 (cbcCtx .enc)))
      (p := fun t => t.ctx 1 != ((cpu []).setCtx 1 (cbcCtx .enc)).ctx 1) (by decide +kernel)
    exact ⟨t, by decide +kernel, h, by simpa using hp⟩
  · obtain ⟨t, h, hp⟩ := exists_next (o := exec (.bstore 0 true) (cpu [7] [] ⟨3, 1, 0, 0, 0⟩))
      (p := fun t => memGet t.buf 3 != memGet (cpu [7] [] ⟨3, 1, 0, 0, 0⟩).buf 3) (by decide +kernel)
    exact ⟨t, by decide +kernel, h, by simpa using hp⟩

theorem witness_MovesWriteTheirValue : ((cpu [-9]).reg 0).natAbs < 2 ^ 8192 := by decide +kernel

/-- A zero and a non-zero divisor, both in range. -/
theorem witness_BdivremTruncatesTowardZero : (2 : Reg) ≠ 3 ∧
    ((cpu [-7, 2]).reg 0).natAbs < 2 ^ 8192 ∧ ((cpu [-7, 2]).reg 1).natAbs < 2 ^ 8192 ∧
    (cpu [-7, 2]).reg 1 ≠ 0 ∧ (cpu [-7, 0]).reg 1 = 0 := by decide +kernel

/-- The moduli of BMOD, BMODMUL, BMODEXP and BMODINV: zero, negative and positive, in range. -/
theorem witness_BmodGivesTheResidue : (cpu [7, 0]).reg 1 = 0 ∧ (cpu [7, -2]).reg 1 < 0 ∧
    ((cpu [7, -2]).reg 1).natAbs < 2 ^ 8192 ∧ 0 < (cpu [7, 1]).reg 1 ∧
    ((cpu [7, 1]).reg 1).natAbs < 2 ^ 8192 := by decide +kernel

theorem witness_ShiftsActOnTheMagnitude : ((cpu [-3]).reg 0).natAbs < 2 ^ 8192 := by decide +kernel

/-- The two bounds of the range clauses, `a + n = 65537` and `a + n = 65536`, and bytes that are held. -/
theorem witness_BloadImportsTheMagnitude : ∃ s : State,
    s.latched.arg0.toNat + s.latched.arg1.toNat = 65536 ∧ s.latched.arg1.toNat ≠ 0 ∧
    s.Holds s.latched.arg0.toNat [1, 0] ∧ [1, (0 : Byte)].length = s.latched.arg1.toNat ∧
    (let a := (cpu [] [] ⟨65535, 2, 0, 0, 0⟩).latched;
      65536 < a.arg0.toNat + a.arg1.toNat) ∧
    (let a := (cpu [] [] ⟨65536, 0, 0, 0, 0⟩).latched;
      a.arg0.toNat + a.arg1.toNat ≤ 65536 ∧ a.arg1.toNat = 0) :=
  ⟨cpu [] (at' 65534 [1, 0]) ⟨65534, 2, 0, 0, 0⟩, by decide +kernel, by decide +kernel,
    holds_of (by decide +kernel), by decide +kernel, by decide +kernel, by decide +kernel⟩

/-- 256 needs two bytes: a range that ends too far, a capacity of 1, a capacity of 2 at the buffer's end. -/
theorem witness_BstoreExportsTheMagnitude : ((cpu [256]).reg 0).natAbs < 256 ^ 2 ∧
    (∀ m, ((cpu [256]).reg 0).natAbs < 256 ^ m → 2 ≤ m) ∧ Memory.wf (cpu [256]).buf ∧
    (let a := (cpu [256] [] ⟨65535, 2, 0, 0, 0⟩).latched; 65536 < a.arg0.toNat + a.arg1.toNat) ∧
    (let a := (cpu [256] [] ⟨65535, 1, 0, 0, 0⟩).latched;
      a.arg0.toNat + a.arg1.toNat ≤ 65536 ∧ a.arg1.toNat < 2) ∧
    (let a := (cpu [256] [] ⟨65534, 2, 0, 0, 0⟩).latched;
      a.arg0.toNat + a.arg1.toNat ≤ 65536 ∧ 2 ≤ a.arg1.toNat) := by
  refine ⟨by decide +kernel, ?_, by decide +kernel, by decide +kernel, by decide +kernel,
    by decide +kernel⟩
  have e : ((cpu [256]).reg 0).natAbs = 256 := by decide +kernel
  rw [e]
  intro m hm
  by_contra h
  interval_cases m <;> omega

/-- A string of the grammar and one outside it. -/
theorem witness_BfromdecParsesTheGrammar :
    (∃ s : State, s.latched.arg0.toNat + s.latched.arg1.toNat ≤ 65536 ∧ s.latched.arg1.toNat = 3 ∧
      s.Holds s.latched.arg0.toNat [0x2D, 0x34, 0x32] ∧
      [0x2D, 0x34, (0x32 : Byte)] = [0x2D] ++ [4, 2].map (fun d => BitVec.ofNat 8 (0x30 + d))) ∧
    (∃ s : State, s.latched.arg1.toNat = 1 ∧ s.Holds s.latched.arg0.toNat [0x2D] ∧
      ∀ (neg : Bool) (digits : List Nat), digits ≠ [] → (∀ d ∈ digits, d < 10) →
        [(0x2D : Byte)] ≠ (if neg then [0x2D] else []) ++
          digits.map (fun d => BitVec.ofNat 8 (0x30 + d))) := by
  refine ⟨⟨cpu [] (at' 0 [0x2D, 0x34, 0x32]) ⟨0, 3, 0, 0, 0⟩, by decide +kernel, by decide +kernel,
    holds_of (by decide +kernel), by decide⟩,
    ⟨cpu [] (at' 0 [0x2D]) ⟨0, 1, 0, 0, 0⟩, by decide +kernel, holds_of (by decide +kernel), ?_⟩⟩
  intro neg digits hne hd h
  cases neg with
  | true => exact hne (by simpa using h)
  | false =>
    obtain ⟨d, l, rfl⟩ := List.exists_cons_of_ne_nil hne
    have h10 := hd d (by simp)
    simp only [Bool.false_eq_true, if_false, List.nil_append, List.map_cons, List.cons.injEq] at h
    have h1 := h.1
    interval_cases d <;> revert h1 <;> decide

/-- The string "-42" has three characters: a range that ends too far, a capacity of 2, one of 3. -/
theorem witness_BtodecWritesTheDecimalString : (decimalString ((cpu [-42]).reg 0)).length = 3 ∧
    (let a := (cpu [-42] [] ⟨65534, 3, 0, 0, 0⟩).latched; 65536 < a.arg0.toNat + a.arg1.toNat) ∧
    (let a := (cpu [-42] [] ⟨65534, 2, 0, 0, 0⟩).latched;
      a.arg0.toNat + a.arg1.toNat ≤ 65536 ∧ a.arg1.toNat < 3) ∧
    (let a := (cpu [-42] [] ⟨65533, 3, 0, 0, 0⟩).latched;
      a.arg0.toNat + a.arg1.toNat ≤ 65536 ∧ 3 ≤ a.arg1.toNat) := by decide +kernel

theorem witness_ExportedValuesImportBack : ∃ s t u : State, Memory.wf s.buf ∧
    (s.reg 0).natAbs < 2 ^ 8192 ∧ s.latched.arg1 ≠ 0 ∧ exec (.bstore 0 true) s = .next t ∧
    t.errcode = 0 ∧ exec (.btodec 0) s = .next u ∧ u.errcode = 0 := by
  obtain ⟨t, h, hp⟩ := exists_next (o := exec (.bstore 0 true) (cpu [-256] [] ⟨0, 4, 0, 0, 0⟩))
    (p := fun t => t.errcode == 0) (by decide +kernel)
  obtain ⟨u, h', hp'⟩ := exists_next (o := exec (.btodec 0) (cpu [-256] [] ⟨0, 4, 0, 0, 0⟩))
    (p := fun t => t.errcode == 0) (by decide +kernel)
  exact ⟨_, t, u, by decide +kernel, by decide +kernel, by decide +kernel, h, by simpa using hp, h',
    by simpa using hp'⟩

/-- Zero, negative and positive moduli, the last 1. -/
theorem witness_BmodmulGivesTheExactResidue : (cpu [3, 4, 0]).reg 2 = 0 ∧ (cpu [3, 4, -5]).reg 2 < 0 ∧
    0 < (cpu [3, 4, 1]).reg 2 ∧ ((cpu [3, 4, 1]).reg 2).natAbs < 2 ^ 8192 ∧
    ((cpu [3, 4, -5]).reg 2).natAbs < 2 ^ 8192 := by decide +kernel

theorem witness_BmodexpIsTheModularPower : (cpu [2, 3, 0]).reg 2 = 0 ∧ (cpu [2, 3, -5]).reg 2 < 0 ∧
    (0 < (cpu [2, -1, 5]).reg 2 ∧ (cpu [2, -1, 5]).reg 1 < 0) ∧
    (0 < (cpu [2, 0, 1]).reg 2 ∧ 0 ≤ (cpu [2, 0, 1]).reg 1) ∧
    ((cpu [2, 0, 1]).reg 2).natAbs < 2 ^ 8192 := by decide +kernel

theorem witness_BgcdIsTheGcd : ((cpu [-12, 18]).reg 0).natAbs < 2 ^ 8192 ∧
    ((cpu [-12, 18]).reg 1).natAbs < 2 ^ 8192 := by decide +kernel

/-- Two non-zero operands, a zero `b`, and a zero `a`, all in range. -/
theorem witness_BextgcdGivesBezoutCoefficients : (2 : Reg) ≠ 3 ∧ (2 : Reg) ≠ 4 ∧ (3 : Reg) ≠ 4 ∧
    ((cpu [240, 46]).reg 0).natAbs < 2 ^ 8192 ∧ ((cpu [240, 46]).reg 1).natAbs < 2 ^ 8192 ∧
    (cpu [-240, 0]).reg 1 = 0 ∧ ((cpu [0, 5]).reg 0 = 0 ∧ (cpu [0, 5]).reg 1 ≠ 0) := by decide +kernel

theorem witness_BmodinvInvertsOrReportsNoInverse : (cpu [3, 0]).reg 1 = 0 ∧ (cpu [3, -7]).reg 1 < 0 ∧
    (0 < (cpu [6, 9]).reg 1 ∧ ((cpu [6, 9]).reg 0).gcd ((cpu [6, 9]).reg 1) ≠ 1) ∧
    (0 < (cpu [5, 1]).reg 1 ∧ ((cpu [5, 1]).reg 0).gcd ((cpu [5, 1]).reg 1) = 1) ∧
    ((cpu [5, 1]).reg 1).natAbs < 2 ^ 8192 := by decide +kernel

/-- `p` below 3, even, odd; and an odd prime. -/
theorem witness_QrtestFollowsEulersCriterion :
    (cpu [2, 2]).reg 1 < 3 ∧ (cpu [2, 4]).reg 1 % 2 = 0 ∧
    (3 ≤ (cpu [2, 3]).reg 1 ∧ (cpu [2, 3]).reg 1 % 2 = 1) ∧
    ∃ p : Nat, Fact p.Prime ∧ p ≠ 2 ∧ (cpu [2, 7]).reg 1 = (p : Int) :=
  ⟨by decide +kernel, by decide +kernel, by decide +kernel, 7, ⟨by norm_num⟩, by decide,
    by decide +kernel⟩

/-- A residue and a non-residue for each path, `p ≡ 3 mod 4` and a small non-residue; a bad `p`; a success;
and for each case of the algorithm an odd `p` that meets it: `(0, 7)`, `(3, 7)`, `(2, 15)`, `(1, 15)`, the
composite 9 without a least non-residue, and 13 with 2. -/
theorem witness_SqrtmodFindsRootsModuloPrimes :
    (Fact (Nat.Prime 7) ∧ (cpu [2, 7]).reg 1 = (7 : Nat) ∧ 7 % 4 = 3 ∧
      IsSquare (((cpu [2, 7]).reg 0 : Int) : ZMod 7) ∧ ¬ IsSquare (((cpu [3, 7]).reg 0 : Int) : ZMod 7)) ∧
    (Fact (Nat.Prime 13) ∧ (cpu [10, 13]).reg 1 = (13 : Nat) ∧ ¬ IsSquare ((2 : Nat) : ZMod 13) ∧
      IsSquare (((cpu [10, 13]).reg 0 : Int) : ZMod 13)) ∧
    (cpu [4, 2]).reg 1 < 3 ∧
    (∃ t, exec (.sqrtmod 2 0 1) (cpu [4, 5]) = .next t ∧ t.errcode = 0) ∧
    ((0 : Int) % 7 = 0 ∧ (3 : Int) ^ 3 % 7 = 7 - 1 ∧
      ((2 : Int) ^ 7 % 15 ≠ 15 - 1 ∧ (2 : Int) ^ 7 % 15 ≠ 1) ∧ ((1 : Int) ^ 7 % 15 = 1 ∧ 15 % 4 = 3)) ∧
    ((1 : Int) ^ 4 % 9 = 1 ∧ 9 % 4 = 1 ∧ ∀ z : Nat, ¬ (2 ≤ z ∧ (z : Int) ^ 4 % 9 = 9 - 1 ∧
      ∀ y : Nat, 2 ≤ y → y < z → (y : Int) ^ 4 % 9 = 1)) ∧
    ((10 : Int) ^ 6 % 13 = 1 ∧ 13 % 4 = 1 ∧ ((2 : Nat) : Int) ^ 6 % 13 = 13 - 1 ∧
      ∀ y : Nat, 2 ≤ y → y < 2 → (y : Int) ^ 6 % 13 = 1) := by
  have e1 : (cpu [2, 7]).reg 0 = 2 := by decide +kernel
  have e2 : (cpu [3, 7]).reg 0 = 3 := by decide +kernel
  have e3 : (cpu [10, 13]).reg 0 = 10 := by decide +kernel
  rw [e1, e2, e3]
  refine ⟨⟨⟨by norm_num⟩, by decide +kernel, rfl, by decide, by decide⟩,
    ⟨⟨by norm_num⟩, by decide +kernel, by decide, by decide⟩, by decide +kernel, ?_, by decide,
    ⟨by decide, by decide, ?_⟩, by decide, by decide, by decide, fun y h h' => by omega⟩
  · obtain ⟨t, h, hp⟩ := exists_next (o := exec (.sqrtmod 2 0 1) (cpu [4, 5]))
      (p := fun t => t.errcode == 0) (by decide +kernel)
    exact ⟨t, h, by simpa using hp⟩
  · rintro z ⟨hz, hn, hl⟩
    obtain rfl | h2 : z = 2 ∨ 2 < z := by omega
    · exact absurd hn (by decide)
    · exact absurd (hl 2 le_rfl h2) (by decide)

theorem witness_DrawsCoverExactlyTheirRange : (-10 : Int) ≤ -3 ∧ (-10 : Int) ≤ -4 ∧ (-4 : Int) ≤ -3 ∧
    [1, (255 : Byte)].length = 2 ∧ ∀ b ∈ [1, (255 : Byte)], b ≠ 0 := by decide

/-- The bit counts at which the clauses of RANDBITS meet. -/
theorem witness_RandbitsForcesTheBitLength : (0#32).toNat = 0 ∧ (1#32).toNat = 1 ∧ 2 ≤ (2#32).toNat ∧
    (8192#32).toNat ≤ 8192 ∧ 8192 < (8193#32).toNat := by decide

theorem witness_RandrangeDrawsFromItsInterval : (cpu [6, 5]).reg 1 < (cpu [6, 5]).reg 0 ∧
    (cpu [5, 5]).reg 0 ≤ (cpu [5, 5]).reg 1 ∧ ((cpu [5, 5]).reg 0).natAbs < 2 ^ 8192 ∧
    ((cpu [5, 5]).reg 1).natAbs < 2 ^ 8192 := by decide +kernel

theorem witness_RandbytesFillsItsRange : Memory.wf (cpu []).buf ∧
    (let a := (cpu [] [] ⟨0xFFF0, 17, 0, 0, 0⟩).latched; 65536 < a.arg0.toNat + a.arg1.toNat) ∧
    (let a := (cpu [] [] ⟨0x10000, 0, 0, 0, 0⟩).latched;
      a.arg0.toNat + a.arg1.toNat ≤ 65536 ∧ a.arg1.toNat = 0) ∧
    (let a := (cpu [] [] ⟨0xFFF0, 16, 0, 0, 0⟩).latched;
      a.arg0.toNat + a.arg1.toNat ≤ 65536 ∧ a.arg1.toNat ≠ 0) := by decide +kernel

/-- Each clause without draws, and an odd `n = 2 * 2^1 + 1` on a supply of one draw and of none. -/
theorem witness_MrtestDecidesOverAllDraws :
    (cpu [1]).reg 0 < 2 ∧ (cpu [3]).reg 0 = 3 ∧ (2 < (cpu [4]).reg 0 ∧ (cpu [4]).reg 0 % 2 = 0) ∧
    (3 < (cpu [997]).reg 0 ∧ (cpu [997]).reg 0 % 2 = 1 ∧ Nat.Prime 997 ∧
      (cpu [997]).reg 0 % (997 : Nat) = 0) ∧
    ((3 : Int) < 5 ∧ (5 : Int) % 2 = 1 ∧ (5 : Int) - 1 = (1 : Nat) * 2 ^ 2 ∧ 1 % 2 = 1 ∧
      (∀ j < 1, supply [0] (0 + j) = some 0) ∧ ∃ j < 1, supply [] (0 + j) = none) :=
  ⟨by decide +kernel, by decide +kernel, by decide +kernel,
    ⟨by decide +kernel, by decide +kernel, by norm_num, by decide +kernel⟩, by decide +kernel⟩

theorem witness_MrtestPassesEveryPrime : Nat.Prime 101 ∧ (cpu [101]).reg 0 = (101 : Nat) :=
  ⟨by norm_num, by decide +kernel⟩

/-- The bit counts at which the clauses of PRIMEGEN meet. -/
theorem witness_PrimegenAcceptsOnlyFittingCandidates : (1#16).toNat < 2 ∧ (2#16).toNat = 2 ∧
    (8192#16).toNat ≤ 8192 ∧ 8192 < (8193#16).toNat := by decide

/-- A bad length; a bad range; and operands that are held. -/
theorem witness_AesblkTransformsOneBlock :
    ¬ ((15#32).toNat = 16 ∨ (15#32).toNat = 24 ∨ (15#32).toNat = 32) ∧
    (let a := (cpu [] [] ⟨0, 0, 0xFFF1, 0, 0⟩).latched; ¬ a.arg2.toNat + 16 ≤ 65536) ∧
    ∃ s : State, Memory.wf s.buf ∧ s.Holds s.latched.arg4.toNat keyK ∧ keyK.length = (16#32).toNat ∧
      s.Holds s.latched.arg0.toNat textP ∧ textP.length = 16 ∧ s.latched.arg2.toNat + 16 = 65536 :=
  ⟨by decide, by decide +kernel, startState ⟨0x100, 0, 0xFFF0, 0, 0⟩, by decide +kernel,
    holds_of (by decide +kernel), by decide +kernel, holds_of (by decide +kernel), by decide +kernel,
    by decide +kernel⟩

/-- The clauses of AESENCS where they meet: a bad length, a bad range, no input, a capacity of 47 and of
48 for CBC, and of 32 for ECB. -/
theorem witness_AesencsStartsAnEncryptedStream :
    ¬ ((20#32).toNat = 16 ∨ (20#32).toNat = 24 ∨ (20#32).toNat = 32) ∧
    (let a := (startState ⟨0x100, 16, 0xFFF0, 48, 0⟩).latched; ¬ a.arg2.toNat + a.arg3.toNat ≤ 65536) ∧
    (startState ⟨0x100, 0, 0x200, 48, 0⟩).latched.arg1.toNat = 0 ∧
    (let a := (startState ⟨0x100, 16, 0x200, 47, 0⟩).latched;
      a.arg3.toNat < 16 * (a.arg1.toNat / 16 + 1) + 16) ∧
    ∃ s : State, Memory.wf s.buf ∧ s.latched.arg1.toNat ≠ 0 ∧
      16 * (s.latched.arg1.toNat / 16 + 1) + 16 = s.latched.arg3.toNat ∧
      s.latched.arg2.toNat + s.latched.arg3.toNat = 65536 ∧ keyK.length = (16#32).toNat ∧
      textP.length = s.latched.arg1.toNat ∧ s.Holds s.latched.arg4.toNat keyK ∧
      s.Holds s.latched.arg0.toNat textP :=
  ⟨by decide, by decide +kernel, by decide +kernel, by decide +kernel,
    startState ⟨0x100, 16, 0xFFD0, 48, 0⟩, by decide +kernel, by decide +kernel, by decide +kernel,
    by decide +kernel, by decide +kernel, by decide +kernel, holds_of (by decide +kernel),
    holds_of (by decide +kernel)⟩

/-- An open encrypt stream with three bytes to encrypt. -/
def contState (args : Args) : State :=
  (cpu [] (at' 0 [0x61, 0x62, 0x63]) args).setCtx 0 (cbcCtx .enc)

theorem witness_AesenccContinuesTheStream :
    ¬ (((cpu []).ctx 0).active = true ∧ ((cpu []).ctx 0).dir = .enc) ∧
    (((contState ⟨0, 3, 0, 0, 0⟩).ctx 0).active = true ∧ ((contState ⟨0, 3, 0, 0, 0⟩).ctx 0).dir = .enc) ∧
    (let a := (contState ⟨0, 3, 0xFFFF, 16, 0⟩).latched; ¬ a.arg2.toNat + a.arg3.toNat ≤ 65536) ∧
    (contState ⟨0, 0, 0x10, 16, 0⟩).latched.arg1.toNat = 0 ∧
    (contState ⟨0, 3, 0x10, 15, 0⟩).latched.arg3.toNat < 16 * (3 / 16 + 1) ∧
    ∃ s : State, Memory.wf s.buf ∧ s.latched.arg1.toNat = 3 ∧ 16 * (3 / 16 + 1) = s.latched.arg3.toNat ∧
      s.Holds s.latched.arg0.toNat [0x61, 0x62, 0x63] :=
  ⟨by decide +kernel, by decide +kernel, by decide +kernel, by decide +kernel, by decide +kernel,
    contState ⟨0, 3, 0x10, 16, 0⟩, by decide +kernel, by decide +kernel, by decide +kernel,
    holds_of (by decide +kernel)⟩

/-- The bytes of CT48. -/
def ct48 : List Byte :=
  hex 0x7649abac8119b246cee98e9b12e9197d8964e0b149c10b7b682e6e39aaeb731c000102030405060708090a0b0c0d0e0f
    48

/-- A bad length, a bad range, no input, 40 bytes, only the IV; a good ciphertext whose capacity is 15 or
16; and one whose pad byte is 0x6D, byte 15 set to 0. -/
theorem witness_AesdecsStartsADecryptedStream :
    ¬ ((20#32).toNat = 16 ∨ (20#32).toNat = 24 ∨ (20#32).toNat = 32) ∧
    (let a := (ct48State ⟨0xFFF0, 48, 0, 0, 0⟩).latched; ¬ a.arg0.toNat + a.arg1.toNat ≤ 65536) ∧
    (¬ (40 % 16 = 0 ∧ 16 + 16 ≤ 40) ∧ ¬ (16 % 16 = 0 ∧ 16 + 16 ≤ 16)) ∧
    (∃ s : State, Memory.wf s.buf ∧ s.latched.arg1.toNat = ct48.length ∧
      s.latched.arg3.toNat = 16 ∧ s.Holds s.latched.arg4.toNat keyK ∧
      s.Holds s.latched.arg0.toNat ct48) ∧
    (let q := (decryptChunk .cbc keyK (Block.ofBytes (ct48.drop 32)) (ct48.take 32)).1;
      (q.getLastD 0).toNat = 16 ∧ q.length - 16 = 16) ∧
    (let x := ct48.set 15 0;
      let q := (decryptChunk .cbc keyK (Block.ofBytes (x.drop 32)) (x.take 32)).1;
      (q.getLastD 0).toNat = 109) :=
  ⟨by decide, by decide +kernel, by decide, ⟨ct48State ⟨0x100, 48, 0x200, 16, 0⟩, by decide +kernel,
    by decide +kernel, by decide +kernel, holds_of (by decide +kernel), holds_of (by decide +kernel)⟩,
    by decide +kernel, by decide +kernel⟩

/-- The chunk of the example of R463, whose pad byte is 13, on an open decrypt stream; and an input of 15
bytes. -/
theorem witness_AesdeccContinuesTheStream :
    ((cbcCtx .dec).active = true ∧ (cbcCtx .dec).dir = .dec) ∧ 15 % 16 ≠ 0 ∧
    (∃ s : State, Memory.wf s.buf ∧ s.latched.arg1.toNat = 16 ∧
      s.Holds s.latched.arg0.toNat (hex 0x4193b2b3d681700ba280adbda14b0582 16)) ∧
    (let q := (decryptChunk .cbc keyK (cbcCtx .dec).fb (hex 0x4193b2b3d681700ba280adbda14b0582 16)).1;
      (q.getLastD 0).toNat = 13 ∧ q.length - 13 = 3) :=
  ⟨by decide, by decide, ⟨cpu [] (at' 0 (hex 0x4193b2b3d681700ba280adbda14b0582 16)) ⟨0, 16, 0x10, 3, 0⟩,
    by decide +kernel, by decide +kernel, holds_of (by decide +kernel)⟩, by decide +kernel⟩

theorem witness_StartRoundTripsThroughTheBuffer : ∃ s t : State, Memory.wf s.buf ∧
    textP.length = s.latched.arg1.toNat ∧ s.Holds s.latched.arg0.toNat textP ∧
    exec (.aesencs 0 .ecb 16) s = .next t ∧ t.errcode = 0 ∧
    s.latched.arg4.toNat + (16#32).toNat ≤ s.latched.arg2.toNat ∧ 0x300 + t.res0.toNat ≤ 65536 := by
  obtain ⟨t, h, hp⟩ := exists_next (o := exec (.aesencs 0 .ecb 16) (startState ⟨0x100, 16, 0x200, 32, 0⟩))
    (p := fun t => t.errcode == 0 && decide (0x300 + t.res0.toNat ≤ 65536)) (by decide +kernel)
  have hp' : t.errcode = 0 ∧ 0x300 + t.res0.toNat ≤ 65536 := by simpa using hp
  exact ⟨_, t, by decide +kernel, by decide +kernel, holds_of (by decide +kernel), h, hp'.1,
    by decide +kernel, hp'.2⟩

theorem witness_ContinueRoundTripsThroughTheBuffer : ∃ s t : State, Memory.wf s.buf ∧
    [0x61, 0x62, (0x63 : Byte)].length = s.latched.arg1.toNat ∧
    s.Holds s.latched.arg0.toNat [0x61, 0x62, 0x63] ∧ exec (.aesencc 0) s = .next t ∧
    t.errcode = 0 ∧ 0x300 + t.res0.toNat ≤ 65536 := by
  obtain ⟨t, h, hp⟩ := exists_next (o := exec (.aesencc 0) (contState ⟨0, 3, 0x10, 16, 0⟩))
    (p := fun t => t.errcode == 0 && decide (0x300 + t.res0.toNat ≤ 65536)) (by decide +kernel)
  have hp' : t.errcode = 0 ∧ 0x300 + t.res0.toNat ≤ 65536 := by simpa using hp
  exact ⟨_, t, by decide +kernel, by decide +kernel, holds_of (by decide +kernel), h, hp'⟩

theorem witness_ClearedStreamsAreNotStarted : ((cpu []).ctx 0).active = false ∧
    (2 : Word).getLsbD 1 = true ∧ ∃ t, (cpu []).hostAccess (.write 0x010 8 2) = .next t :=
  ⟨by decide +kernel, by decide, _, rfl⟩

/-- The premises of the part on encryption, then of the part on decryption. -/
theorem witness_AeslenSizesTheOutput : (∃ s t u v : State, v.latched.arg0 = s.latched.arg1 ∧
    exec (if true then .aesencs 0 .ecb 16 else .aesencc 0) s = .next t ∧ t.errcode = 0 ∧
    exec (.aeslen .ecb .enc true) v = .next u) ∧
    ∃ s t u v : State, v.latched.arg0 = s.latched.arg1 ∧ exec (.aeslen .cbc .dec true) v = .next u ∧
      u.res0.toNat ≤ s.latched.arg3.toNat ∧
      exec (if true then .aesdecs 1 .cbc 16 else .aesdecc 1) s = .next t := by
  constructor
  · obtain ⟨t, h, hp⟩ := exists_next
      (o := exec (.aesencs 0 .ecb 16) (startState ⟨0x100, 16, 0x200, 32, 0⟩))
      (p := fun t => t.errcode == 0) (by decide +kernel)
    exact ⟨_, t, _, cpu [] [] ⟨16, 0, 0, 0, 0⟩, by decide +kernel, h, by simpa using hp, rfl⟩
  · obtain ⟨t, h, -⟩ := exists_next
      (o := exec (.aesdecs 1 .cbc 16) (ct48State ⟨0x100, 48, 0x200, 32, 0⟩))
      (p := fun t => t.errcode == 0) (by decide +kernel)
    obtain ⟨u, hu, hp⟩ := exists_next
      (o := exec (.aeslen .cbc .dec true) (cpu [] [] ⟨48, 0, 0, 0, 0⟩))
      (p := fun u => decide (u.res0.toNat ≤ 32)) (by decide +kernel)
    refine ⟨_, t, u, _, ?_, hu, ?_, h⟩
    · decide +kernel
    · have e : (ct48State ⟨0x100, 48, 0x200, 32, 0⟩).latched.arg3.toNat = 32 := by decide +kernel
      rw [e]
      simpa using hp

end Sys2Proof.Tests
end

section
/-! PROOFS. The host port on the register block, and what a completion keeps of the host's side: the rules
behind the statements about the registers (10_state.md section 3). -/

namespace Sys2Proof.Machine

variable (s : State)

/-! ### Accesses to the register block -/

theorem regionOf_registers {offset : Nat} (h : offset < 0x10000) : regionOf offset = .registers :=
  if_pos h

theorem registerLegal_iff {offset width : Nat} :
    registerLegal offset width = true ↔ width = 8 ∧ offset % 8 = 0 := by
  simp [registerLegal]

/-- A legal read of the register block answers the register and changes nothing else (R110). -/
theorem hostAccess_read_register {offset : Nat} (h : offset < 0x10000) (ha : offset % 8 = 0) :
    s.hostAccess (.read offset 8) = .next (s.answer (.data (s.readRegister offset))) := by
  simp only [State.hostAccess, State.hostRead, regionOf_registers h,
    registerLegal_iff.mpr ⟨rfl, ha⟩, if_true]

/-- A legal write to the register block is the register's own write, acknowledged (R110). -/
theorem hostAccess_write_register {offset : Nat} (h : offset < 0x10000) (ha : offset % 8 = 0)
    (v : Word) :
    s.hostAccess (.write offset 8 v) = .next ((s.writeRegister offset v).answer .ack) := by
  simp only [State.hostAccess, State.hostWrite, regionOf_registers h,
    registerLegal_iff.mpr ⟨rfl, ha⟩, if_true]

/-- A write of another width or alignment to the register block is a bus error (R110). -/
theorem hostAccess_write_register_illegal {offset width : Nat} (h : offset < 0x10000)
    (hl : ¬ (width = 8 ∧ offset % 8 = 0)) (v : Word) :
    s.hostAccess (.write offset width v) = .next (s.answer .error) := by
  simp only [State.hostAccess, State.hostWrite, regionOf_registers h,
    mt registerLegal_iff.mp hl, if_neg, State.busError, Bool.false_eq_true, not_false_eq_true]

/-! ### Writes to CTRL, STATUS and CMD -/

/-- CTRL with bit 1 clear takes IRQ_EN from bit 0 (R43). -/
theorem writeCtrl_enable {v : Word} (h : v.getLsbD 1 = false) :
    s.writeCtrl v = { s with irqEn := v.getLsbD 0 } :=
  if_neg (Bool.eq_false_iff.mp h)

/-- CTRL with bit 1 set is the soft reset, whatever bit 0 says (R552). -/
theorem writeCtrl_reset {v : Word} (h : v.getLsbD 1 = true) : s.writeCtrl v = s.softReset :=
  if_pos h

/-- CTRL reads as IRQ_EN (R43). -/
theorem ctrlWord_eq : s.ctrlWord = if s.irqEn then 1 else 0 := by
  cases h : s.irqEn <;> simp [State.ctrlWord, h, bit]

/-- STATUS with bit 1 set clears DONE (R44). -/
theorem writeStatus_clears_done {v : Word} (h : v.getLsbD 1 = true) :
    (s.writeStatus v).done = false := by
  simp only [State.writeStatus, if_pos h]
  split <;> rfl

/-- CMD launches when `Idle` (R45). -/
theorem writeCmd_idle (w : Word) (h : s.seq = .idle) : s.writeCmd w = s.launch w := by
  simp [State.writeCmd, h]

/-- CMD is dropped when `Busy` (R45). -/
theorem writeCmd_busy (w : Word) {w' : Word} {a : Args} (h : s.seq = .busy w' a) :
    s.writeCmd w = { s with dropped := true } := by
  simp [State.writeCmd, h]

/-! ### The argument registers -/

/-- The offsets of ARG0 to ARG4 (10_state.md section 3). -/
def argOffsets : List Nat := [0x028, 0x030, 0x038, 0x040, 0x048]

/-- An ARG register is a legal target of a 64-bit access. -/
theorem argOffsets_legal : ∀ offset ∈ argOffsets, offset < 0x10000 ∧ offset % 8 = 0 := by decide

/-- A write to an ARG register leaves the sequencer, and with it the latched copy, alone (R46). -/
theorem writeRegister_arg_seq {offset : Nat} (h : offset ∈ argOffsets) (v : Word) :
    (s.writeRegister offset v).seq = s.seq := by
  simp only [argOffsets, List.mem_cons, List.not_mem_nil, or_false] at h
  rcases h with rfl | rfl | rfl | rfl | rfl <;> rfl

/-- A running command keeps its copy through a write to an ARG register (R46). -/
theorem latched_of_arg_write {s t : State} {w : Word} {a : Args} {offset : Nat} {v : Word}
    (hbusy : s.seq = .busy w a) (hmem : offset ∈ argOffsets)
    (hw : s.hostAccess (.write offset 8 v) = .next t) : t.latched = a := by
  obtain ⟨hlt, haligned⟩ := argOffsets_legal offset hmem
  rw [hostAccess_write_register s hlt haligned] at hw
  obtain rfl := Host.Outcome.next.inj hw
  apply State.latched_busy (w := w)
  rw [State.answer_seq, writeRegister_arg_seq s hmem, hbusy]

/-! ### The interrupt output -/

/-- `irq` is IRQ_EN and DONE (R48). -/
theorem irq_iff : s.irq = true ↔ s.irqEn = true ∧ s.done = true := by
  simp [State.irq]

/-- With DONE clear `irq` is low (R520). -/
theorem irq_of_not_done {s : State} (h : s.done = false) : s.irq = false := by
  simp [State.irq, h]

/-- With DONE set `irq` is IRQ_EN (R520). -/
theorem irq_of_done {s : State} (h : s.done = true) : s.irq = s.irqEn := by
  simp [State.irq, h]

/-! ### What a command's computation keeps

A command computes its new state with the operations `setReg`, `setCtx`, `setRes`, `write` and `spend`;
none of them reaches what the host alone writes. -/

/-- `u` has the sequencer, the host's registers, the reset level and the model's list and answer of `s`,
and has spent no fewer draws. -/
structure State.SameHostSide (s u : State) : Prop where
  seq : u.seq = s.seq
  irqEn : u.irqEn = s.irqEn
  dropped : u.dropped = s.dropped
  cmdLast : u.cmdLast = s.cmdLast
  args : u.args = s.args
  rst : u.rst = s.rst
  events : u.events = s.events
  resp : u.resp = s.resp
  draws : s.draws ≤ u.draws

namespace State.SameHostSide

variable {s u : State}

theorem refl (s : State) : s.SameHostSide s := ⟨rfl, rfl, rfl, rfl, rfl, rfl, rfl, rfl, le_rfl⟩

theorem setReg (h : s.SameHostSide u) (i : Reg) (v : Int) : s.SameHostSide (u.setReg i v) := { h with }

theorem setCtx (h : s.SameHostSide u) (k : CtxIx) (c : Ctx) : s.SameHostSide (u.setCtx k c) := { h with }

theorem setRes (h : s.SameHostSide u) (r0 r1 : Word) : s.SameHostSide (u.setRes r0 r1) := { h with }

theorem write (h : s.SameHostSide u) (a : Nat) (bytes : List Byte) : s.SameHostSide (u.write a bytes) :=
  { h with }

theorem spend (h : s.SameHostSide u) (n : Nat) : s.SameHostSide (u.spend n) :=
  { h with draws := h.draws.trans (Nat.le_add_right _ _) }

end State.SameHostSide

/-- Where the computation `r` gives a state, it has the host's side of `s`. -/
def State.Keeps (s : State) (r : Except ErrCode State) : Prop := ∀ u, r = .ok u → s.SameHostSide u

namespace State.Keeps

variable {s u : State}

theorem ok (h : s.SameHostSide u) : s.Keeps (.ok u) := fun _ hu => Except.ok.inj hu ▸ h

theorem error (e : ErrCode) : s.Keeps (.error e) := fun _ hu => nomatch hu

/-- A check, or a computation of a value, before the rest. -/
theorem after {α : Type} {m : Except ErrCode α} {f : α → Except ErrCode State}
    (h : ∀ x, s.Keeps (f x)) : s.Keeps (m >>= f) := by
  cases m with
  | error e => exact error e
  | ok x => exact h x

/-- A change of the state before the rest. -/
theorem andThen {m : Except ErrCode State} {f : State → Except ErrCode State}
    (hm : s.Keeps m) (hf : ∀ t, s.SameHostSide t → s.Keeps (f t)) : s.Keeps (m >>= f) := by
  cases m with
  | error e => exact error e
  | ok t => exact hf t (hm t rfl)

theorem writeReg (h : s.SameHostSide u) (i : Reg) (v : Int) : s.Keeps (u.writeReg i v) := by
  rcases writeReg_cases u i v with ⟨-, e⟩ | ⟨-, e⟩ <;> rw [e]
  · exact ok (h.setReg i v)
  · exact error _

theorem putReg (h : s.SameHostSide u) (i : Reg) (v : Int) : s.Keeps (u.putReg i v) :=
  (writeReg h i v).andThen fun _ ht => ok (ht.setRes 0 0)

/-- The encryption of a Start writes the buffer, its context and the results (R460). -/
theorem encStart (h : s.SameHostSide u) (src : Source) (i : Nat) (k : CtxIx) (mode : Mode)
    (key p : List Byte) : s.Keeps (u.encStart src i k mode key p) := by
  have start (fb : Block) (iv : List Byte) : s.Keeps (.ok (u.startEnc k mode key p fb iv)) :=
    ok (((h.write _ _).setCtx _ _).setRes _ _)
  unfold State.encStart
  split
  · exact start _ _
  · split
    · exact error _
    · exact start _ _

/-- The delivery of decrypted bytes writes the buffer, a context and the results (R462, R463). -/
theorem deliver (h : s.SameHostSide u) (k : CtxIx) (c : Ctx) (q : List Byte) :
    s.Keeps (u.deliver k c q) := by
  unfold State.deliver
  split
  · exact error _
  · split
    · exact ok (((h.write _ _).setCtx _ _).setRes _ _)
    · exact error _

end State.Keeps

/-! ### What a completion can be -/

/-- The ends of a command run from `s` (R502, R503): a computed state with the host's side of `s`, ended
with success, or `s` itself ended with an error, its draws spent (log 2). -/
inductive State.CompletesTo (s : State) : State → Prop where
  | success {u : State} (h : s.SameHostSide u) : s.CompletesTo u.succeed
  | error (n : Nat) (e : ErrCode) : s.CompletesTo ((s.spend n).fail e)

namespace State.CompletesTo

variable {s t : State}

/-- Every completion sets DONE (R502, R503). -/
theorem done (h : s.CompletesTo t) : t.done = true := by cases h <;> rfl

/-- No completion changes IRQ_EN. -/
theorem irqEn (h : s.CompletesTo t) : t.irqEn = s.irqEn := by
  cases h with
  | success h => exact h.irqEn
  | error => rfl

/-- No completion changes the ARG registers (R46). -/
theorem args (h : s.CompletesTo t) : t.args = s.args := by
  cases h with
  | success h => exact h.args
  | error => rfl

/-- A computation that makes `n` draws, completed. -/
theorem spend_complete (n : Nat) {r : Except ErrCode State} (h : s.Keeps r) :
    s.CompletesTo ((s.spend n).complete r) := by
  rcases complete_cases (s.spend n) r with ⟨u, rfl, e⟩ | ⟨c, rfl, e⟩ <;> rw [e]
  · exact success (h u rfl)
  · exact error n c

/-- A computation without draws, completed. -/
theorem complete {r : Except ErrCode State} (h : s.Keeps r) : s.CompletesTo (s.complete r) :=
  spend_complete 0 h

end State.CompletesTo

/-- If `o` goes on, it goes on to a completion from `s`. -/
def State.CompletesAs (s : State) (o : Host.Outcome State Fault Refusal) : Prop :=
  ∀ t, o = .next t → s.CompletesTo t

namespace State.CompletesAs

variable {s : State}

theorem next {t : State} (h : s.CompletesTo t) : s.CompletesAs (.next t) :=
  fun _ ht => Host.Outcome.next.inj ht ▸ h

/-- A command that computes without reading BUF and without a draw. -/
theorem complete {r : Except ErrCode State} (h : s.Keeps r) : s.CompletesAs (.next (s.complete r)) :=
  next (.complete h)

/-- A command that draws. -/
theorem spend_complete (n : Nat) {r : Except ErrCode State} (h : s.Keeps r) :
    s.CompletesAs (.next ((s.spend n).complete r)) :=
  next (.spend_complete n h)

/-- A command that writes one register. -/
theorem putReg (rd : Reg) (v : Int) : s.CompletesAs (.next (s.complete (s.putReg rd v))) :=
  complete (.putReg (.refl s) rd v)

/-- A command that checks its operands, then writes one register. -/
theorem checked_putReg (c : Except ErrCode Unit) (rd : Reg) (v : Int) :
    s.CompletesAs (.next (s.complete (c >>= fun _ => s.putReg rd v))) :=
  complete (.after fun _ => .putReg (.refl s) rd v)

/-- A command that only writes the results. -/
theorem setRes (r0 r1 : Word) : s.CompletesAs (.next (s.complete (.ok (s.setRes r0 r1)))) :=
  complete (.ok ((State.SameHostSide.refl s).setRes r0 r1))

/-- A command that checks and reads BUF first. -/
theorem finish {α : Type} {r : Except Stop α} {k : α → State} (h : ∀ x, s.CompletesTo (k x)) :
    s.CompletesAs (s.finish r k) := by
  rcases finish_cases s r k with ⟨x, -, e⟩ | ⟨c, -, e⟩ | ⟨f, -, e⟩ <;> rw [e]
  · exact next (h x)
  · exact next (.error 0 c)
  · exact fun _ ht => nomatch ht

end State.CompletesAs

open State in
/-- Every command ends in a completion from its own state, unless it faults (R502, R503, R555). -/
theorem exec_completesAs (i : Instr) : s.CompletesAs (exec i s) := by
  have same := SameHostSide.refl s
  cases i with
  | nop => exact .setRes _ _
  | bseti rd imm => exact .putReg _ _
  | bmov rd rs1 => exact .putReg _ _
  | bneg rd rs1 => exact .putReg _ _
  | badd rd rs1 rs2 => exact .putReg _ _
  | bsub rd rs1 rs2 => exact .putReg _ _
  | bmul rd rs1 rs2 => exact .putReg _ _
  | bdivrem rd rd2 rs1 rs2 =>
    exact .complete (.after fun _ => (Keeps.writeReg same _ _).andThen fun _ ht =>
      (Keeps.writeReg ht _ _).andThen fun _ hu => .ok (hu.setRes _ _))
  | bmod rd rs1 rs2 => exact .checked_putReg _ _ _
  | bcmp rs1 rs2 => exact .setRes _ _
  | bshl rd rs1 k => exact .checked_putReg _ _ _
  | bshr rd rs1 k => exact .putReg _ _
  | bbitlen rs1 => exact .setRes _ _
  | bload rd le neg => exact .finish fun _ => .complete (.putReg same _ _)
  | bstore rs1 le => exact .finish fun _ => .success ((same.write _ _).setRes _ _)
  | bfromdec rd =>
    refine .finish fun bytes => .complete ?_
    cases parseDecimal bytes with
    | none => exact .error _
    | some v => exact .putReg same _ _
  | btodec rs1 => exact .finish fun _ => .success ((same.write _ _).setRes _ _)
  | bmodmul rd rs1 rs2 rs3 => exact .checked_putReg _ _ _
  | bmodexp rd rs1 rs2 rs3 =>
    exact .complete (.after fun _ => .after fun _ => .putReg same _ _)
  | bgcd rd rs1 rs2 => exact .putReg _ _
  | bextgcd rd rd2 rd3 rs1 rs2 =>
    exact .complete ((Keeps.writeReg same _ _).andThen fun _ ht =>
      (Keeps.writeReg ht _ _).andThen fun _ hu =>
        (Keeps.writeReg hu _ _).andThen fun _ hv => .ok (hv.setRes _ _))
  | bmodinv rd rs1 rs2 =>
    exact .complete (.after fun _ => .after fun _ => .putReg same _ _)
  | qrtest rs1 rs2 =>
    exact .complete (.after fun _ => .after fun _ => .ok (same.setRes _ _))
  | sqrtmod rd rs1 rs2 =>
    exact .complete (.after fun _ => .after fun _ =>
      (Keeps.writeReg same _ _).andThen fun _ ht => .ok (ht.setRes _ _))
  | randbits rd odd n =>
    exact .spend_complete _ (.after fun _ => .after fun _ => .putReg (same.spend _) _ _)
  | randrange rd rs1 rs2 =>
    exact .spend_complete _ (.after fun _ => .after fun _ => .putReg (same.spend _) _ _)
  | randbytes nz =>
    exact .spend_complete _ (.after fun _ => .after fun _ =>
      .ok (((same.spend _).write _ _).setRes _ _))
  | mrtest rs1 td k => exact .spend_complete _ (.after fun _ => .ok ((same.spend _).setRes _ _))
  | primegen rd bits rounds =>
    simp only [exec, execPrimegen]
    split
    · exact .next (.error 0 _)
    · exact .spend_complete _ (.after fun _ =>
        (Keeps.writeReg (same.spend _) _ _).andThen fun _ ht => .ok (ht.setRes _ _))
  | aesblk dec keylen => exact .finish fun _ => .success ((same.write _ _).setRes _ _)
  | aesencs k mode keylen =>
    exact .finish fun _ => .spend_complete _ (.encStart (same.spend _) _ _ _ _ _ _)
  | aesencc k =>
    exact .finish fun _ => .success (((same.write _ _).setCtx _ _).setRes _ _)
  | aesdecs k mode keylen => exact .finish fun _ => .complete (.deliver same _ _ _)
  | aesdecc k => exact .finish fun _ => .complete (.deliver same _ _ _)
  | aesclr k => exact .complete (.ok ((same.setCtx _ _).setRes _ _))
  | aeslen mode dir first => exact .setRes _ _

/-- A completion sets DONE (R502, R503). -/
theorem exec_done {i : Instr} {s t : State} (h : exec i s = .next t) : t.done = true :=
  (exec_completesAs s i t h).done

/-- A completion keeps IRQ_EN. -/
theorem exec_irqEn {i : Instr} {s t : State} (h : exec i s = .next t) : t.irqEn = s.irqEn :=
  (exec_completesAs s i t h).irqEn

/-- A completion keeps the ARG registers (R46). -/
theorem exec_args {i : Instr} {s t : State} (h : exec i s = .next t) : t.args = s.args :=
  (exec_completesAs s i t h).args

/-! ### The statements -/

/-- Settles O15: a completion sets DONE and keeps IRQ_EN; the STATUS write and the launch clear DONE. -/
theorem irqRisesAtCompletionAndFallsWhenCleared :
    Obligations.IrqRisesAtCompletionAndFallsWhenCleared := by
  refine ⟨rfl, irq_iff, ?_, ?_, ?_⟩
  · intro i s t h
    rw [irq_of_done (exec_done h), exec_irqEn h]
  · intro s x hx
    exact ⟨_, hostAccess_write_register s (by decide) (by decide) x,
      irq_of_not_done (writeStatus_clears_done s hx)⟩
  · intro s w hidle
    have launched : (s.writeCmd w).done = false := by rw [writeCmd_idle s w hidle, State.launch_done]
    exact ⟨_, hostAccess_write_register s (by decide) (by decide) w, irq_of_not_done launched⟩

/-- Settles O16: the accesses to ARG0 to ARG4, the latched copy, and the completions. -/
theorem argRegistersHoldAndAreLatched : Obligations.ArgRegistersHoldAndAreLatched := by
  refine ⟨fun s v => ?_, fun s t w a offset v => latched_of_arg_write, fun i s t => exec_args, rfl⟩
  have write {offset : Nat} (h : offset ∈ argOffsets) :=
    hostAccess_write_register s (argOffsets_legal offset h).1 (argOffsets_legal offset h).2 v
  have read {offset : Nat} (h : offset ∈ argOffsets) :=
    hostAccess_read_register s (argOffsets_legal offset h).1 (argOffsets_legal offset h).2
  exact ⟨write (by decide), write (by decide), write (by decide), write (by decide), write (by decide),
    read (by decide), read (by decide), read (by decide), read (by decide), read (by decide)⟩

/-- Settles O12: the two words are constants, and the register write ignores both offsets. -/
theorem idAndParamAreConstant : Obligations.IdAndParamAreConstant := by
  intro s x
  exact ⟨hostAccess_read_register s (by decide) (by decide),
    hostAccess_read_register s (by decide) (by decide),
    hostAccess_write_register s (by decide) (by decide) x,
    hostAccess_write_register s (by decide) (by decide) x⟩

/-- Settles O13, by the state of the sequencer and the width of the write. -/
theorem cmdWriteLaunchesOrIsDropped : Obligations.CmdWriteLaunchesOrIsDropped := by
  intro s w
  have write : s.hostAccess (.write 0x020 8 w) = .next ((s.writeCmd w).answer .ack) :=
    hostAccess_write_register s (by decide) (by decide) w
  refine ⟨fun hidle => ?_, fun w' a hbusy => ?_, hostAccess_read_register s (by decide) (by decide),
    fun width hwidth => ?_, rfl⟩
  · rw [write, writeCmd_idle s w hidle]; rfl
  · rw [write, writeCmd_busy s w hbusy]; rfl
  · exact hostAccess_write_register_illegal s (by decide) (fun h => hwidth h.1) w

/-- Settles O14, by bit 1 of the written word. -/
theorem ctrlWriteEnablesOrResets : Obligations.CtrlWriteEnablesOrResets := by
  intro s v
  have write : s.hostAccess (.write 0x010 8 v) = .next ((s.writeCtrl v).answer .ack) :=
    hostAccess_write_register s (by decide) (by decide) v
  refine ⟨fun h => ?_, fun h => ?_, ?_⟩
  · rw [write, writeCtrl_enable s h]; rfl
  · rw [write, writeCtrl_reset s h]; rfl
  · rw [hostAccess_read_register s (by decide) (by decide), ← ctrlWord_eq]; rfl

end Sys2Proof.Machine
end

section
/-! PROOFS. The host port by region: which accesses the register block and the window take, and what the
port does with each (20_memory.md sections 3 and 4). -/

namespace Sys2Proof.Machine

variable (s : State)

/-! ### The register block -/

/-- A read of another width or alignment from the register block is a bus error (R110). -/
theorem hostAccess_read_register_illegal {offset width : Nat} (h : offset < 0x10000)
    (hl : ¬ (width = 8 ∧ offset % 8 = 0)) :
    s.hostAccess (.read offset width) = .next (s.answer .error) := by
  simp only [State.hostAccess, State.hostRead, regionOf_registers h, if_neg (mt registerLegal_iff.mp hl),
    State.busError]

/-- A reserved offset reads 0 (10_state.md section 3). -/
theorem readRegister_reserved {offset : Nat} (h : 0x060 ≤ offset) : s.readRegister offset = 0 := by
  unfold State.readRegister
  split
  case h_13 => rfl
  all_goals omega

/-- RES0, RES1 and the reserved offsets ignore a write (10_state.md section 3). -/
theorem writeRegister_ignored {offset : Nat} (h : 0x050 ≤ offset) (v : Word) :
    s.writeRegister offset v = s := by
  unfold State.writeRegister
  split
  case h_9 => rfl
  all_goals omega

/-! ### Which accesses the window takes -/

/-- A width of the window, at a multiple of it: the accesses of R111. -/
abbrev WindowAligned (a width : Nat) : Prop :=
  (width = 1 ∨ width = 2 ∨ width = 4 ∨ width = 8) ∧ a % width = 0

theorem regionOf_window {a : Nat} (h : a < 65536) : regionOf (0x10000 + a) = .window a := by
  unfold regionOf
  rw [if_neg (by omega), if_pos (Nat.add_lt_add_left h _), Nat.add_sub_cancel_left]

/-- The window starts at a multiple of every width, so alignment may be read off the buffer offset. -/
theorem windowLegal_iff {a width : Nat} :
    windowLegal (0x10000 + a) width = true ↔ WindowAligned a width := by
  simp only [windowLegal, WindowAligned, Bool.and_eq_true, Bool.or_eq_true, beq_iff_eq, or_assoc]
  refine and_congr_right fun hw => ?_
  rcases hw with rfl | rfl | rfl | rfl <;> omega

theorem not_busy_iff : s.busy = false ↔ s.seq = .idle := by
  cases h : s.seq <;> simp [State.busy, h]

/-- The port takes a window access exactly when `Idle` and aligned (R111, R113). -/
theorem windowTaken_iff {a width : Nat} :
    (!s.busy && windowLegal (0x10000 + a) width) = true ↔ s.seq = .idle ∧ WindowAligned a width := by
  rw [Bool.and_eq_true, Bool.not_eq_true', not_busy_iff, windowLegal_iff]

/-- The window's size is a multiple of every width, so an aligned access does not cross its end. -/
theorem WindowAligned.inside {a width : Nat} (h : WindowAligned a width) (ha : a < 65536) :
    a + width ≤ 65536 := by
  obtain ⟨rfl | rfl | rfl | rfl, haligned⟩ := h <;> omega

/-! ### What the window does -/

section
variable {a width : Nat} (ha : a < 65536)
include ha

/-- A window read the port takes reads the buffer (R107). -/
theorem hostAccess_read_window (hidle : s.seq = .idle) (haligned : WindowAligned a width) :
    s.hostAccess (.read (0x10000 + a) width) = s.readWindow a width := by
  simp only [State.hostAccess, State.hostRead, regionOf_window ha,
    if_pos ((windowTaken_iff s).mpr ⟨hidle, haligned⟩)]

/-- A window write the port takes stores the low bytes of the word (R107). -/
theorem hostAccess_write_window (hidle : s.seq = .idle) (haligned : WindowAligned a width) (v : Word) :
    s.hostAccess (.write (0x10000 + a) width v) =
      .next ((s.write a (toLE v.toNat width)).answer .ack) := by
  simp only [State.hostAccess, State.hostWrite, regionOf_window ha,
    if_pos ((windowTaken_iff s).mpr ⟨hidle, haligned⟩)]

/-- Any other window read is a bus error (R111, R113). -/
theorem hostAccess_read_window_illegal (h : ¬ (s.seq = .idle ∧ WindowAligned a width)) :
    s.hostAccess (.read (0x10000 + a) width) = .next (s.answer .error) := by
  simp only [State.hostAccess, State.hostRead, regionOf_window ha, if_neg (mt (windowTaken_iff s).mp h),
    State.busError]

/-- Any other window write is a bus error (R111, R113). -/
theorem hostAccess_write_window_illegal (h : ¬ (s.seq = .idle ∧ WindowAligned a width)) (v : Word) :
    s.hostAccess (.write (0x10000 + a) width v) = .next (s.answer .error) := by
  simp only [State.hostAccess, State.hostWrite, regionOf_window ha, if_neg (mt (windowTaken_iff s).mp h),
    State.busError]

end

/-- A window read answers the value of the bytes it read, or is the host's fault (R107, R555). -/
theorem readWindow_cases (a width : Nat) :
    (∃ bytes, memRead .host s.buf a width = .ok bytes ∧
      s.readWindow a width = .next (s.answer (.data (natRes (leValue bytes))))) ∨
    (∃ f, memRead .host s.buf a width = .error f ∧ s.readWindow a width = .fault f) := by
  unfold State.readWindow
  cases memRead .host s.buf a width with
  | ok bytes => exact .inl ⟨bytes, rfl, rfl⟩
  | error f => exact .inr ⟨f, rfl, rfl⟩

/-! ### The statements -/

/-- Settles O17: an access of another width or alignment is a bus error; a legal one is the register's own
read or write, and from RES0 on writes are ignored. -/
theorem registerBlockTakesAlignedWordsOnly : Obligations.RegisterBlockTakesAlignedWordsOnly := by
  intro s offset width v hoffset
  refine ⟨fun hillegal => ⟨hostAccess_read_register_illegal s hoffset hillegal,
    hostAccess_write_register_illegal s hoffset hillegal v⟩, ?_⟩
  rintro rfl haligned
  have read := hostAccess_read_register s hoffset haligned
  have write := hostAccess_write_register s hoffset haligned v
  refine ⟨⟨_, read⟩, ⟨_, write, rfl⟩, ?_, ?_, fun hignored => ?_, fun hreserved => ?_⟩
  · rintro rfl; exact read
  · rintro rfl; exact read
  · rw [write, writeRegister_ignored s hignored]; rfl
  · rw [read, readRegister_reserved s hreserved]; rfl

/-- Settles O18: the port takes a window access exactly when `Idle` and aligned, and a read it takes answers
data or faults. -/
theorem windowTakesAlignedIdleAccessesOnly : Obligations.WindowTakesAlignedIdleAccessesOnly := by
  intro s a width v ha
  constructor
  · intro hillegal
    have hrefused : ¬ (s.seq = .idle ∧ WindowAligned a width) := not_and_or.mpr hillegal
    exact ⟨hostAccess_read_window_illegal s ha hrefused, hostAccess_write_window_illegal s ha hrefused v⟩
  · intro hidle hwidth hmultiple
    have haligned : WindowAligned a width := ⟨hwidth, hmultiple⟩
    refine ⟨haligned.inside ha, ⟨_, hostAccess_write_window s ha hidle haligned v, rfl⟩, fun t ht => ?_⟩
    rw [hostAccess_read_window s ha hidle haligned] at ht
    rcases readWindow_cases s a width with ⟨bytes, -, hanswer⟩ | ⟨f, -, hfault⟩
    · obtain rfl := Host.Outcome.next.inj (hanswer.symm.trans ht)
      exact ⟨_, rfl⟩
    · exact nomatch hfault.symm.trans ht

end Sys2Proof.Machine
end

section
/-! PROOFS. The BigInt moves and arithmetic (40_bigint_basic.md sections 2 and 3): what a command that ends
in `writeReg` does, the checks in front of it, and the number each command computes. -/

namespace Sys2Proof.Machine

variable (s : State)

/-! ### Ending a command, in the terms of the statements -/

theorem succeed_eq_ended : s.succeed = s.ended 0 := rfl

theorem fail_eq_ended (e : ErrCode) : s.fail e = s.ended e.code := rfl

/-- A passed check or a computed value, then the rest. -/
@[simp] theorem except_ok_bind {ε α β : Type} (x : α) (f : α → Except ε β) :
    (Except.ok x >>= f) = f x := rfl

/-- A failed check drops the rest (R18, R500). -/
@[simp] theorem except_error_bind {ε α β : Type} (e : ε) (f : α → Except ε β) :
    (Except.error e >>= f) = .error e := rfl

/-- The end of a command that wrote `v` to `b[rd]` and 0 to both results (R47, R200, R502). -/
def State.wroteReg (rd : Reg) (v : Int) : State :=
  ({ s with regs := s.regs.set rd v, res0 := 0, res1 := 0 } : State).ended 0

/-- R200: a value in range is written and the results cleared; any other is CapacityExceeded. -/
theorem complete_putReg (rd : Reg) (v : Int) :
    (.next (s.complete (s.putReg rd v)) : Host.Outcome State Fault Refusal) =
      if v.natAbs < 2 ^ 8192 then .next (s.wroteReg rd v) else .next (s.ended 9) := by
  rw [← cap_eq]
  split
  case isTrue h => rw [putReg_ok s h]; rfl
  case isFalse h => rw [putReg_error s (not_lt.mp h)]; rfl

theorem complete_putReg_of_lt {rd : Reg} {v : Int} (h : v.natAbs < 2 ^ 8192) :
    (.next (s.complete (s.putReg rd v)) : Host.Outcome State Fault Refusal) =
      .next (s.wroteReg rd v) := by
  rw [complete_putReg, if_pos h]

/-! ### NOP, the moves and the ring operations -/

/-- A 32-bit immediate is in range of a register of 32 bits or more (R202). -/
theorem natAbs_toInt_lt (imm : BitVec 32) {n : Nat} (hn : 32 ≤ n) : imm.toInt.natAbs < 2 ^ n := by
  have lower := imm.le_toInt
  have upper := imm.toInt_lt
  have small : imm.toInt.natAbs < 2 ^ 32 := by omega
  exact small.trans_le (Nat.pow_le_pow_right two_pos hn)

/-- Settles O25: the immediate, a register in range and its negation all fit. -/
theorem movesWriteTheirValue : Obligations.MovesWriteTheirValue := by
  intro s rd rs1 imm
  refine ⟨rfl, complete_putReg_of_lt s (natAbs_toInt_lt imm (by decide)), fun h => ⟨?_, ?_⟩⟩
  · exact complete_putReg_of_lt s h
  · exact complete_putReg_of_lt s (by rwa [Int.natAbs_neg])

/-- Settles O26: each of the three writes its exact value by R200. -/
theorem addSubMulAreExactOrExceedCapacity : Obligations.AddSubMulAreExactOrExceedCapacity := by
  intro s rd rs1 rs2 outcome
  exact ⟨complete_putReg s rd _, complete_putReg s rd _, complete_putReg s rd _⟩

/-! ### BDIVREM -/

/-- A remainder of R15 is 0 or has the dividend's sign. -/
theorem tmod_eq_zero_or_sign (a d : Int) : a.tmod d = 0 ∨ (a.tmod d < 0 ↔ a < 0) := by
  by_cases h : d ∣ a
  · exact .inl (Int.tmod_eq_zero_of_dvd h)
  · refine .inr ?_
    rw [← Int.sign_eq_neg_one_iff_neg, Int.sign_tmod, if_neg h, Int.sign_eq_neg_one_iff_neg]

theorem abs_tmod_lt (a : Int) {d : Int} (h : d ≠ 0) : |a.tmod d| < |d| := by
  rw [← Int.natCast_natAbs, ← Int.natCast_natAbs, Int.natAbs_tmod]
  exact_mod_cast Nat.mod_lt _ (Int.natAbs_pos.mpr h)

/-- A zero divisor is DivisionByZero (R208). -/
theorem execBdivrem_zero {rd rd2 rs1 rs2 : Reg} (h : s.reg rs2 = 0) :
    exec (.bdivrem rd rd2 rs1 rs2) s = .next (s.ended 2) := by
  simp [exec, execBdivrem, h, fail_eq_ended, ErrCode.code]

/-- A quotient and a remainder that fit are both written, computed from the sources as they were (R208). -/
theorem execBdivrem_nonzero {rd rd2 rs1 rs2 : Reg} (h : s.reg rs2 ≠ 0)
    (hq : ((s.reg rs1).tdiv (s.reg rs2)).natAbs < Config.cap)
    (hr : ((s.reg rs1).tmod (s.reg rs2)).natAbs < Config.cap) :
    exec (.bdivrem rd rd2 rs1 rs2) s = .next (({ s with
      regs := (s.regs.set rd ((s.reg rs1).tdiv (s.reg rs2))).set rd2 ((s.reg rs1).tmod (s.reg rs2))
      res0 := 0, res1 := 0 } : State).ended 0) := by
  simp only [exec, execBdivrem, bne_iff_ne.mpr h, need_true, except_ok_bind, writeReg_ok _ hq,
    writeReg_ok _ hr, complete_ok]
  rfl

/-- Settles O27: the quotient and the remainder of R15 are no larger than the dividend, so both fit. -/
theorem bdivremTruncatesTowardZero : Obligations.BdivremTruncatesTowardZero := by
  intro s rd rd2 rs1 rs2 _ ha _
  refine ⟨execBdivrem_zero s, fun hd => ?_⟩
  have hq : ((s.reg rs1).tdiv (s.reg rs2)).natAbs < Config.cap := by
    rw [cap_eq, Int.natAbs_tdiv]
    exact (Nat.div_le_self _ _).trans_lt ha
  have hr : ((s.reg rs1).tmod (s.reg rs2)).natAbs < Config.cap := by
    rw [cap_eq, Int.natAbs_tmod]
    exact (Nat.mod_le _ _).trans_lt ha
  exact ⟨_, _, Int.tdiv_mul_add_tmod _ _, abs_tmod_lt _ hd, tmod_eq_zero_or_sign _ _,
    execBdivrem_nonzero s hd hq hr⟩

/-! ### BMOD -/

theorem checkModulus_zero : checkModulus 0 = .error .divisionByZero := rfl

theorem checkModulus_neg {m : Int} (h : m < 0) : checkModulus m = .error .domainError := by
  rw [checkModulus, bne_iff_ne.mpr h.ne, decide_eq_true h]; rfl

theorem checkModulus_pos {m : Int} (h : 0 < m) : checkModulus m = .ok () := by
  rw [checkModulus, bne_iff_ne.mpr h.ne', decide_eq_false h.not_gt]; rfl

/-- A residue of a modulus in range is in range. -/
theorem natAbs_fmod_lt (a : Int) {m : Int} (h : 0 < m) : (a.fmod m).natAbs < m.natAbs :=
  Int.natAbs_lt_natAbs_of_nonneg_of_lt (Int.fmod_nonneg_of_pos a h) (Int.fmod_lt_of_pos a h)

/-- BMOD, once its modulus is checked (R209). -/
theorem execBmod_eq (rd rs1 rs2 : Reg) :
    exec (.bmod rd rs1 rs2) s = .next (s.complete (checkModulus (s.reg rs2) >>= fun _ =>
      s.putReg rd ((s.reg rs1).fmod (s.reg rs2)))) := rfl

/-- Settles O28, by the sign of the modulus. -/
theorem bmodGivesTheResidue : Obligations.BmodGivesTheResidue := by
  intro s rd rs1 rs2 hm
  rw [execBmod_eq]
  refine ⟨fun hzero => ?_, fun hneg => ?_, fun hpos => ?_⟩
  · rw [hzero, checkModulus_zero]; rfl
  · rw [checkModulus_neg hneg]; rfl
  · refine ⟨_, Int.fmod_nonneg_of_pos (s.reg rs1) hpos, Int.fmod_lt_of_pos _ hpos,
      Int.dvd_self_sub_fmod, ?_⟩
    rw [checkModulus_pos hpos, except_ok_bind]
    exact complete_putReg_of_lt s ((natAbs_fmod_lt _ hpos).trans hm)

/-! ### BCMP and BBITLEN -/

/-- The comparison outcome as a word (R47, R210). -/
theorem signedRes_compareRes (a b : Int) : signedRes (compareRes a b) =
    if a < b then 0xFFFFFFFFFFFFFFFF else if a = b then 0 else 1 := by
  unfold compareRes
  rw [apply_ite signedRes, apply_ite signedRes]
  rfl

/-- A verdict as a word. -/
theorem boolRes_decide (p : Prop) [Decidable p] : boolRes (decide p) = if p then 1 else 0 := by
  by_cases h : p
  · rw [if_pos h, decide_eq_true h]; rfl
  · rw [if_neg h, decide_eq_false h]; rfl

/-- Settles O29: the comparison outcome, and `bitLen` as the least width. -/
theorem compareAndBitLengthAnswer : Obligations.CompareAndBitLengthAnswer := by
  intro s rs1 rs2
  refine ⟨?_, bitLen (s.reg rs1).natAbs, lt_two_pow_bitLen _, fun m => bitLen_le, ?_⟩
  · rw [← signedRes_compareRes]; rfl
  · rw [← boolRes_decide]; rfl

/-! ### BSHL and BSHR -/

theorem natAbs_sgn_mul (a : Int) (m : Nat) : (sgn a * (m : Int)).natAbs = m := by
  unfold sgn
  split <;> simp

/-- A non-zero operand leaves a capacity of `n` bits from a shift by `n` on (R211). -/
theorem two_pow_le_shifted {a : Int} {n k : Nat} (ha : a ≠ 0) (hk : n ≤ k) :
    2 ^ n ≤ a.natAbs * 2 ^ k :=
  (Nat.pow_le_pow_right two_pos hk).trans (Nat.le_mul_of_pos_left _ (Int.natAbs_pos.mpr ha))

/-- What the guard of `execBshl` lets pass: a zero operand, or a shift below the width bound. -/
theorem shiftGuard_iff (a : Int) (k : BitVec 32) :
    (a == 0 || decide (unsignedImm k < Config.capBits)) = true ↔ a = 0 ∨ k.toNat < 8192 := by
  rw [Bool.or_eq_true, beq_iff_eq, decide_eq_true_iff]
  rfl

/-- BSHL, whether or not the shift amount is large: the guard of `execBshl` stops only values that do not
fit (R211, log 13). -/
theorem execBshl_eq (rd rs1 : Reg) (k : BitVec 32) :
    exec (.bshl rd rs1 k) s = .next (s.complete (s.putReg rd (shiftLeft (s.reg rs1) k.toNat))) := by
  simp only [exec, execBshl]
  by_cases hguard : s.reg rs1 = 0 ∨ k.toNat < 8192
  · rw [(shiftGuard_iff _ k).mpr hguard, need_true, except_ok_bind]
    rfl
  · obtain ⟨ha, hk⟩ := not_or.mp hguard
    have exceeds : Config.cap ≤ (shiftLeft (s.reg rs1) k.toNat).natAbs := by
      rw [shiftLeft_eq, natAbs_sgn_mul, cap_eq]
      exact two_pow_le_shifted ha (not_lt.mp hk)
    rw [Bool.eq_false_iff.mpr (mt (shiftGuard_iff _ k).mp hguard), need_false, except_error_bind,
      putReg_error s exceeds]

/-- Settles O30: the shifted magnitude is what R200 checks, and a right shift does not enlarge it. -/
theorem shiftsActOnTheMagnitude : Obligations.ShiftsActOnTheMagnitude := by
  intro s rd rs1 k a
  constructor
  · rw [execBshl_eq, complete_putReg, shiftLeft_eq, natAbs_sgn_mul]; rfl
  · intro ha
    have inRange : (shiftRight a k.toNat).natAbs < 2 ^ 8192 := by
      rw [shiftRight_eq, natAbs_sgn_mul]
      exact (Nat.div_le_self _ _).trans_lt ha
    exact (complete_putReg_of_lt s inRange).trans (by rw [shiftRight_eq]; rfl)

end Sys2Proof.Machine
end

section
/-! PROOFS. The byte and decimal conversions (40_bigint_basic.md section 5): byte strings and decimal strings
as numbers, what the input and output checks of these commands do, and the four commands. -/

namespace Sys2Proof.Machine

variable (s : State)

/-! ### Byte strings -/

/-- `LE` as Mathlib's digits to base 256 (R16). -/
theorem leValue_eq_ofDigits (bytes : List Byte) :
    leValue bytes = Nat.ofDigits 256 (bytes.map BitVec.toNat) := by
  induction bytes with
  | nil => rfl
  | cons b bytes ih => simp [leValue, Nat.ofDigits_cons, ih]

/-- Byte `i` of `toLE(v, n)` (R16). -/
theorem toLE_getElem? (v n i : Nat) :
    (toLE v n)[i]? = if i < n then some (BitVec.ofNat 8 (v / 256 ^ i)) else none := by
  induction n generalizing v i with
  | zero => simp [toLE]
  | succ n ih =>
    cases i with
    | zero => simp [toLE]
    | succ i => simp [toLE, ih, Nat.div_div_eq_div_mul, Nat.pow_succ']

/-- Byte `i` of `toBE(v, n)` is byte `n - 1 - i` of `toLE(v, n)` (R16). -/
theorem toBE_getElem? {v n i : Nat} (h : i < n) :
    (toBE v n)[i]? = some (BitVec.ofNat 8 (v / 256 ^ (n - 1 - i))) := by
  rw [toBE, List.getElem?_reverse (by simpa using h), toLE_length, toLE_getElem?, if_pos (by omega)]

theorem exportBytes_length (le : Bool) (v : Int) (c : Nat) : (exportBytes le v c).length = c := by
  cases le <;> simp [exportBytes]

/-- The byte BSTORE writes at offset `i` of its range, in either byte order (R231). -/
theorem exportBytes_getElem? {le : Bool} {v : Int} {c i : Nat} (h : i < c) :
    (exportBytes le v c)[i]? =
      some (BitVec.ofNat 8 (v.natAbs / 256 ^ (if le then i else c - 1 - i))) := by
  cases le with
  | true => exact (toLE_getElem? _ _ _).trans (if_pos h)
  | false => exact toBE_getElem? h

/-- The byte length is the least one (R16). -/
theorem byteLen_eq_of_least {v n : Nat} (h : v < 256 ^ n) (hleast : ∀ m, v < 256 ^ m → n ≤ m) :
    byteLen v = n :=
  le_antisymm (byteLen_le_iff.mpr h) (hleast _ (byteLen_le_iff.mp le_rfl))

/-- BLOAD's magnitude, with its flags applied (R230). -/
theorem importValue_eq (le neg : Bool) (bytes : List Byte) :
    importValue le neg bytes =
      let mag : Nat := Nat.ofDigits 256 ((if le then bytes else bytes.reverse).map BitVec.toNat)
      if neg then -(mag : Int) else mag := by
  cases le <;> simp only [importValue, beValue, leValue_eq_ofDigits] <;> rfl

/-! ### The checks of the input and of the output -/

/-- BLOAD's and BFROMDEC's input: the range, the length, then the read (R230, R232). -/
theorem input_eq : s.input =
    checkRange s.latched.arg0.toNat s.latched.arg1.toNat >>= fun _ =>
      require (s.latched.arg1.toNat != 0) .emptyBuffer >>= fun _ =>
        s.read s.latched.arg0.toNat s.latched.arg1.toNat := rfl

/-- BSTORE's and BTODEC's checks: the range, then the capacity (R231, R233). -/
theorem storeChecks_eq (needed : Nat) : s.storeChecks needed =
    checkRange s.latched.arg0.toNat s.latched.arg1.toNat >>= fun _ =>
      require (decide (needed ≤ s.latched.arg1.toNat)) .bufferTooSmall := rfl

/-- A command that reads its input, then completes: its errors in order, and what it does with the bytes
its range holds (R230, R232). -/
theorem finish_input (k : List Byte → State) :
    (65536 < s.latched.arg0.toNat + s.latched.arg1.toNat →
      s.finish s.input k = .next (s.ended 10)) ∧
    (s.latched.arg0.toNat + s.latched.arg1.toNat ≤ 65536 → s.latched.arg1.toNat = 0 →
      s.finish s.input k = .next (s.ended 6)) ∧
    (∀ bytes : List Byte, s.latched.arg0.toNat + s.latched.arg1.toNat ≤ 65536 →
      s.latched.arg1.toNat ≠ 0 → bytes.length = s.latched.arg1.toNat →
      s.Holds s.latched.arg0.toNat bytes → s.finish s.input k = .next (k bytes)) := by
  refine ⟨fun h => ?_, fun h hzero => ?_, fun bytes h hne hlen hold => ?_⟩
  · rw [input_eq, checkRange_raises h]; rfl
  · rw [input_eq, (checkRange_eq_ok (u := ())).mpr h, hzero]; rfl
  · rw [input_eq, (checkRange_eq_ok (u := ())).mpr h, bne_iff_ne.mpr hne, except_ok_bind, require_true,
      except_ok_bind, (read_eq_ok s hlen).mpr hold, finish_ok]

/-- A command that checks its output range, then completes: its errors in order (R231, R233). -/
theorem finish_storeChecks (needed : Nat) (k : Unit → State) :
    (65536 < s.latched.arg0.toNat + s.latched.arg1.toNat →
      s.finish (s.storeChecks needed) k = .next (s.ended 10)) ∧
    (s.latched.arg0.toNat + s.latched.arg1.toNat ≤ 65536 → s.latched.arg1.toNat < needed →
      s.finish (s.storeChecks needed) k = .next (s.ended 5)) ∧
    (s.latched.arg0.toNat + s.latched.arg1.toNat ≤ 65536 → needed ≤ s.latched.arg1.toNat →
      s.finish (s.storeChecks needed) k = .next (k ())) := by
  refine ⟨fun h => ?_, fun h hsmall => ?_, fun h hfits => ?_⟩
  · rw [storeChecks_eq, checkRange_raises h]; rfl
  · rw [storeChecks_eq, (checkRange_eq_ok (u := ())).mpr h, decide_eq_false (not_le.mpr hsmall)]; rfl
  · rw [storeChecks_eq, (checkRange_eq_ok (u := ())).mpr h, decide_eq_true hfits]; rfl

/-! ### BLOAD and BSTORE -/

theorem natAbs_signed (neg : Bool) (mag : Nat) :
    (if neg then -(mag : Int) else mag).natAbs = mag := by
  cases neg <;> simp

/-- Settles O31: the input's errors, then R200 on the imported value. -/
theorem bloadImportsTheMagnitude : Obligations.BloadImportsTheMagnitude := by
  intro s rd le neg
  obtain ⟨hrange, hempty, hread⟩ := finish_input s
    (fun bytes => s.complete (s.putReg rd (importValue le neg bytes)))
  refine ⟨hrange, hempty, fun bytes h hne hlen hold => (hread bytes h hne hlen hold).trans ?_⟩
  rw [complete_putReg, importValue_eq, natAbs_signed]
  rfl

/-- Settles O32: the output's errors, then every byte of the range is the exported one. -/
theorem bstoreExportsTheMagnitude : Obligations.BstoreExportsTheMagnitude := by
  intro s rs1 le n hwf hlt hleast a c
  obtain rfl := byteLen_eq_of_least hlt hleast
  obtain ⟨hrange, hsmall, hstore⟩ := finish_storeChecks s (byteLen (s.reg rs1).natAbs)
    (fun _ => ((s.write a (exportBytes le (s.reg rs1) c)).setRes
      (natRes (byteLen (s.reg rs1).natAbs)) (boolRes (decide (s.reg rs1 < 0)))).succeed)
  refine ⟨hrange, hsmall, fun h hfits => ⟨_, hstore h hfits, ?_, fun x => ?_⟩⟩
  · rw [← boolRes_decide]; rfl
  · rw [State.succeed_buf, State.setRes_buf, State.write_buf, memGet_memWrite _ hwf.1,
      exportBytes_length]
    refine if_ctx_congr Iff.rfl (fun hx => ?_) (fun _ => rfl)
    rw [exportBytes_getElem? (by omega), show c - 1 - (x - a) = a + c - 1 - x by omega]

/-! ### Decimal strings -/

/-- The ASCII byte of a decimal digit (R232). -/
def digitByte (d : Nat) : Byte := BitVec.ofNat 8 (0x30 + d)

/-- A string of the grammar `'-'? [0-9]+` (R232), where `digits` is not empty and below 10. -/
def signedDigits (neg : Bool) (digits : List Nat) : List Byte :=
  (if neg then [0x2D] else []) ++ digits.map digitByte

theorem digitByte_toNat {d : Nat} (h : d < 10) : (digitByte d).toNat = 0x30 + d := by
  rw [digitByte, BitVec.toNat_ofNat]
  omega

/-- The digit bytes are those of the digits below 10. -/
theorem isDigit_iff (b : Byte) : isDigit b = true ↔ ∃ d < 10, digitByte d = b := by
  rw [isDigit, Bool.and_eq_true, decide_eq_true_iff, decide_eq_true_iff]
  constructor
  · rintro ⟨hlo, hhi⟩
    refine ⟨b.toNat - 0x30, by omega, BitVec.eq_of_toNat_eq ?_⟩
    rw [digitByte_toNat (by omega)]
    omega
  · rintro ⟨d, hd, rfl⟩
    rw [digitByte_toNat hd]
    omega

/-- Digit bytes only are the bytes of a list of digits. -/
theorem all_isDigit_iff (bytes : List Byte) :
    bytes.all isDigit = true ↔ ∃ digits : List Nat, (∀ d ∈ digits, d < 10) ∧
      digits.map digitByte = bytes := by
  rw [List.all_eq_true]
  simp only [isDigit_iff]
  constructor
  · intro h
    induction bytes with
    | nil => exact ⟨[], by simp, rfl⟩
    | cons b bytes ih =>
      obtain ⟨d, hd, rfl⟩ := h b (by simp)
      obtain ⟨digits, hdigits, rfl⟩ := ih fun b hb => h b (by simp [hb])
      exact ⟨d :: digits, by simpa using ⟨hd, hdigits⟩, rfl⟩
  · rintro ⟨digits, hdigits, rfl⟩ b hb
    obtain ⟨d, hd, rfl⟩ := List.mem_map.mp hb
    exact ⟨d, hdigits d hd, rfl⟩

/-- The value of a digit string is that of its digits, the last one the lowest (R232). -/
theorem digitsValue_map (digits : List Nat) (h : ∀ d ∈ digits, d < 10) :
    digitsValue (digits.map digitByte) = Nat.ofDigits 10 digits.reverse := by
  induction digits using List.reverseRecOn with
  | nil => rfl
  | append_singleton digits d ih =>
    have hd : d < 10 := h d (by simp)
    have step : digitsValue ((digits ++ [d]).map digitByte) =
        digitsValue (digits.map digitByte) * 10 + ((digitByte d).toNat - 0x30) := by
      simp [digitsValue]
    rw [step, ih fun e he => h e (by simp [he]), digitByte_toNat hd, List.reverse_append,
      List.reverse_singleton, List.singleton_append, Nat.ofDigits_cons]
    omega

/-- No digit string starts with '-'. -/
theorem head?_map_digitByte (digits : List Nat) (h : ∀ d ∈ digits, d < 10) :
    ((digits.map digitByte).head? == some 0x2D) = false := by
  cases digits with
  | nil => rfl
  | cons d digits =>
    have hd := digitByte_toNat (h d (by simp))
    have hne : digitByte d ≠ 0x2D := fun e => by
      have : 0x2D = 0x30 + d := (congrArg BitVec.toNat e).symm.trans hd
      omega
    simpa using hne

/-- What `parseDecimal` asks of the digits: one or more, and nothing else (R232). -/
theorem digits_accepted_iff (bytes : List Byte) :
    (bytes.isEmpty || !bytes.all isDigit) = false ↔
      ∃ digits : List Nat, digits ≠ [] ∧ (∀ d ∈ digits, d < 10) ∧ digits.map digitByte = bytes := by
  rw [Bool.or_eq_false_iff, Bool.not_eq_false', all_isDigit_iff]
  constructor
  · rintro ⟨hne, digits, hlt, rfl⟩
    exact ⟨digits, by simpa using hne, hlt, rfl⟩
  · rintro ⟨digits, hne, hlt, rfl⟩
    exact ⟨by simpa using hne, digits, hlt, rfl⟩

theorem parseDecimal_minus (bytes : List Byte) : parseDecimal (0x2D :: bytes) =
    if bytes.isEmpty || !bytes.all isDigit then none else some (-(digitsValue bytes : Int)) := rfl

theorem parseDecimal_plain {bytes : List Byte} (h : (bytes.head? == some 0x2D) = false) :
    parseDecimal bytes =
      if bytes.isEmpty || !bytes.all isDigit then none else some (digitsValue bytes : Int) := by
  simp only [parseDecimal, h, Bool.false_eq_true, if_false]

/-- The strings of the grammar have their value (R232). -/
theorem parseDecimal_signedDigits (neg : Bool) {digits : List Nat} (hne : digits ≠ [])
    (h : ∀ d ∈ digits, d < 10) :
    parseDecimal (signedDigits neg digits) =
      some (if neg then -((Nat.ofDigits 10 digits.reverse : Nat) : Int)
        else (Nat.ofDigits 10 digits.reverse : Nat)) := by
  have accepted := (digits_accepted_iff _).mpr ⟨digits, hne, h, rfl⟩
  rw [← digitsValue_map digits h]
  cases neg with
  | true => exact (parseDecimal_minus (digits.map digitByte)).trans (if_neg (Bool.eq_false_iff.mp accepted))
  | false =>
    exact (parseDecimal_plain (head?_map_digitByte digits h)).trans
      (if_neg (Bool.eq_false_iff.mp accepted))

/-- Where the digits are accepted, they are those of a list of digits. -/
theorem digits_of_accepted {bytes : List Byte} {v w : Int}
    (h : (if bytes.isEmpty || !bytes.all isDigit then none else some w) = some v) :
    ∃ digits : List Nat, digits ≠ [] ∧ (∀ d ∈ digits, d < 10) ∧ digits.map digitByte = bytes := by
  obtain ⟨accepted, -⟩ := Option.ite_none_left_eq_some.mp h
  exact (digits_accepted_iff bytes).mp (Bool.eq_false_iff.mpr accepted)

/-- Only strings of the grammar have a value (R232). -/
theorem signedDigits_of_parseDecimal {bytes : List Byte} {v : Int} (h : parseDecimal bytes = some v) :
    ∃ (neg : Bool) (digits : List Nat), digits ≠ [] ∧ (∀ d ∈ digits, d < 10) ∧
      bytes = signedDigits neg digits := by
  cases hsign : bytes.head? == some 0x2D with
  | true =>
    obtain ⟨bytes, rfl⟩ := List.head?_eq_some_iff.mp (beq_iff_eq.mp hsign)
    obtain ⟨digits, hne, hlt, rfl⟩ := digits_of_accepted ((parseDecimal_minus bytes).symm.trans h)
    exact ⟨true, digits, hne, hlt, rfl⟩
  | false =>
    obtain ⟨digits, hne, hlt, rfl⟩ := digits_of_accepted ((parseDecimal_plain hsign).symm.trans h)
    exact ⟨false, digits, hne, hlt, rfl⟩

/-- The digits of `v` in front of `acc`, by the digits to base 10 (R233, log 13). -/
theorem decimalOnto_eq {fuel v : Nat} (h : v ≤ fuel) (acc : List Byte) :
    decimalOnto fuel v acc = (Nat.digits 10 v).reverse.map digitByte ++ acc := by
  induction fuel generalizing v acc with
  | zero => simp [decimalOnto, Nat.le_zero.mp h]
  | succ fuel ih =>
    rw [decimalOnto]
    split
    case isTrue hzero => simp [hzero]
    case isFalse hpos =>
      rw [ih (by omega), Nat.digits_def' (n := v) (by decide) (by omega)]
      simp [digitByte]

/-- The string BTODEC writes (R233). -/
theorem decimalString_eq (v : Int) :
    decimalString v = (if v < 0 then [0x2D] else []) ++
      (if v = 0 then [0x30]
        else (Nat.digits 10 v.natAbs).reverse.map fun d => BitVec.ofNat 8 (0x30 + d)) := by
  have digits : decimalDigits v.natAbs =
      if v = 0 then [0x30] else (Nat.digits 10 v.natAbs).reverse.map digitByte := by
    simp only [decimalDigits, Int.natAbs_eq_zero, decimalOnto_eq le_rfl, List.append_nil]
  rw [decimalString, digits]
  split <;> rfl

/-! ### BFROMDEC and BTODEC -/

/-- BFROMDEC completes from the value of its input, or with ParseError where it has none (R232). -/
theorem execBfromdec_eq (rd : Reg) : exec (.bfromdec rd) s = s.finish s.input fun bytes =>
    s.complete ((parseDecimal bytes).elim (.error .parseError) (s.putReg rd)) := by
  simp only [exec, execBfromdec]
  congr 1
  funext bytes
  cases parseDecimal bytes <;> rfl

/-- Settles O33: the input's errors, then R200 on the value of a string of the grammar. -/
theorem bfromdecParsesTheGrammar : Obligations.BfromdecParsesTheGrammar := by
  intro s rd
  rw [execBfromdec_eq]
  obtain ⟨hrange, hempty, hread⟩ := finish_input s fun bytes =>
    s.complete ((parseDecimal bytes).elim (.error .parseError) (s.putReg rd))
  refine ⟨hrange, hempty, fun bytes h hne hlen hold => ?_⟩
  rw [hread bytes h hne hlen hold]
  refine ⟨fun neg digits hdigits hlt hbytes => ?_, fun houtside => ?_⟩
  · obtain rfl : bytes = signedDigits neg digits := hbytes
    rw [parseDecimal_signedDigits neg hdigits hlt, Option.elim_some, complete_putReg, natAbs_signed]
    rfl
  · have hnone : parseDecimal bytes = none := by
      refine Option.eq_none_iff_forall_ne_some.mpr fun v hv => ?_
      obtain ⟨neg, digits, hdigits, hlt, hbytes⟩ := signedDigits_of_parseDecimal hv
      exact houtside neg digits hdigits hlt hbytes
    rw [hnone]
    rfl

/-- Settles O34: the output's errors, then the string of R233 is written. -/
theorem btodecWritesTheDecimalString : Obligations.BtodecWritesTheDecimalString := by
  intro s rs1 hwf a c v text
  have htext : decimalString v = text := decimalString_eq v
  obtain ⟨hrange, hsmall, hstore⟩ := finish_storeChecks s text.length
    (fun _ => ((s.write a text).setRes (natRes text.length) 0).succeed)
  have hexec : exec (.btodec rs1) s = s.finish (s.storeChecks text.length) fun _ =>
      ((s.write a text).setRes (natRes text.length) 0).succeed := by rw [← htext]; rfl
  rw [hexec]
  refine ⟨hrange, hsmall, fun h hfits => ⟨_, hstore h hfits, rfl, fun x => ?_⟩⟩
  exact memGet_memWrite _ hwf.1 a x

end Sys2Proof.Machine
end

section
/-! PROOFS. The modular arithmetic unit (41_bigint_modular.md): square-and-multiply is the modular power,
extended Euclid gives a Bézout identity, and what BMODMUL, BMODEXP, BGCD and BMODINV write. -/

namespace Sys2Proof.Machine

variable (s : State)

/-! ### Square-and-multiply -/

/-- One round of R302 turns the power for the bits above `i` into the power for the bits from `i` on. -/
theorem squareMultiply_eq {m : Int} (hm : 0 < m) (base : Int) (e i : Nat) {r : Int}
    (hr : r = base ^ (e / 2 ^ (i + 1)) % m) :
    (if e.testBit i then ((r * r).fmod m * base.fmod m).fmod m else (r * r).fmod m) =
      base ^ (e / 2 ^ i) % m := by
  have hr : r ≡ base ^ (e / 2 ^ (i + 1)) [ZMOD m] := hr ▸ Int.mod_modEq _ _
  have split : e / 2 ^ i = 2 * (e / 2 ^ (i + 1)) + e / 2 ^ i % 2 := by
    rw [pow_succ, ← Nat.div_div_eq_div_mul]; omega
  have square : r * r ≡ base ^ (2 * (e / 2 ^ (i + 1))) [ZMOD m] := by
    rw [two_mul, pow_add]; exact hr.mul hr
  simp only [Int.fmod_eq_emod_of_nonneg _ hm.le, Nat.testBit_eq_decide_div_mod_eq, decide_eq_true_eq]
  split
  case isTrue hbit =>
    rw [split, hbit, pow_succ]
    exact ((Int.mod_modEq _ m).trans square).mul (Int.mod_modEq _ m)
  case isFalse hbit =>
    rw [split, Nat.mod_two_ne_one.mp hbit, add_zero]
    exact square

theorem modExpLoop_eq {m : Int} (hm : 0 < m) (base : Int) (e i : Nat) {r : Int}
    (hr : r = base ^ (e / 2 ^ i) % m) : modExpLoop (base.fmod m) m e i r = base ^ e % m := by
  induction i generalizing r with
  | zero => simpa [modExpLoop] using hr
  | succ i ih => exact ih (squareMultiply_eq hm base e i hr)

/-- R302: for a positive modulus the loop computes the modular power. -/
theorem modExp_eq {m : Int} (hm : 0 < m) (base : Int) (e : Nat) : modExp base e m = base ^ e % m := by
  refine modExpLoop_eq hm base e _ ?_
  rw [Nat.div_eq_of_lt (lt_two_pow_bitLen e), pow_zero, Int.fmod_eq_emod_of_nonneg _ hm.le]

/-! ### Extended Euclid -/

/-- The loop of R304 keeps both rows on the line `a * s + b * t = r` and the gcd of the remainders. -/
theorem extLoop_spec (a b : Int) (fuel : Nat) {r0 r1 s0 s1 t0 t1 : Int} (hr0 : 0 ≤ r0) (hr1 : 0 ≤ r1)
    (hfuel : r1 ≤ fuel) (row0 : a * s0 + b * t0 = r0) (row1 : a * s1 + b * t1 = r1) :
    (extLoop fuel r0 r1 s0 s1 t0 t1).1 = r0.gcd r1 ∧
    a * (extLoop fuel r0 r1 s0 s1 t0 t1).2.1 + b * (extLoop fuel r0 r1 s0 s1 t0 t1).2.2 =
      (extLoop fuel r0 r1 s0 s1 t0 t1).1 := by
  induction fuel generalizing r0 r1 s0 s1 t0 t1 with
  | zero =>
    obtain rfl : r1 = 0 := by omega
    exact ⟨by simp [extLoop, abs_of_nonneg hr0], row0⟩
  | succ fuel ih =>
    rw [extLoop]
    split
    case isTrue hzero =>
      subst hzero
      exact ⟨by simp [abs_of_nonneg hr0], row0⟩
    case isFalse hne =>
      have hpos : 0 < r1 := by omega
      have hrem : r0 - r0.fdiv r1 * r1 = r0.fmod r1 := by rw [Int.fmod_def, mul_comm]
      have hlt := Int.fmod_lt_of_pos r0 hpos
      have row2 : a * (s0 - r0.fdiv r1 * s1) + b * (t0 - r0.fdiv r1 * t1) =
          r0 - r0.fdiv r1 * r1 := by linear_combination row0 - r0.fdiv r1 * row1
      have next := ih hr1 (hrem ▸ Int.fmod_nonneg_of_pos r0 hpos) (by omega) row1 row2
      rwa [Int.gcd_sub_mul_right_right, Int.gcd_comm] at next

/-- R304: extended Euclid on a non-negative and a positive number. -/
theorem extGcd_spec {a b : Int} (ha : 0 ≤ a) (hb : 0 < b) :
    (extGcd a b).1 = a.gcd b ∧ a * (extGcd a b).2.1 + b * (extGcd a b).2.2 = (extGcd a b).1 := by
  have natA : (a.natAbs : Int) = a := Int.natAbs_of_nonneg ha
  have natB : (b.natAbs : Int) = b := Int.natAbs_of_nonneg hb.le
  have hloop := extLoop_spec a b b.natAbs (s0 := 1) (s1 := 0) (t0 := 0) (t1 := 1) ha hb.le natB.ge
    (by ring) (by ring)
  simpa [extGcd, sgn, natA, natB, abs_of_nonneg ha, abs_of_pos hb, ha.not_gt, hb.not_gt] using hloop

/-- The coefficient of a value coprime to `m` is its inverse modulo `m` (R305). -/
theorem extGcd_inverse (a : Int) {m : Int} (hm : 0 < m) (hco : a.gcd m = 1) :
    a * (extGcd (a.fmod m) m).2.1.fmod m % m = 1 % m := by
  obtain ⟨hgcd, bezout⟩ := extGcd_spec (Int.fmod_nonneg_of_pos a hm) hm
  rw [hgcd, Int.fmod_eq_emod_of_nonneg _ hm.le, Int.gcd_emod, hco] at bezout
  rw [Int.fmod_eq_emod_of_nonneg _ hm.le, Int.fmod_eq_emod_of_nonneg _ hm.le]
  calc a * ((extGcd (a % m) m).2.1 % m) % m
      = a % m * (extGcd (a % m) m).2.1 % m := by simp [Int.mul_emod]
    _ = (a % m * (extGcd (a % m) m).2.1 + m * (extGcd (a % m) m).2.2) % m := by simp
    _ = 1 % m := by rw [bezout]; rfl

/-! ### The commands -/

/-- A residue of a modulus in range is in range of every register (R200). -/
theorem natAbs_emod_lt (a : Int) {m : Int} {n : Nat} (hpos : 0 < m) (hm : m.natAbs < n) :
    (a % m).natAbs < n :=
  (Int.natAbs_lt_natAbs_of_nonneg_of_lt (Int.emod_nonneg a hpos.ne') (Int.emod_lt_of_pos a hpos)).trans hm

/-- The two errors of a command that checks its modulus first, whatever follows the check. -/
theorem complete_checkModulus_error (m : Int) (k : Unit → Except ErrCode State) :
    (m = 0 → s.complete (checkModulus m >>= k) = s.ended 2) ∧
    (m < 0 → s.complete (checkModulus m >>= k) = s.ended 12) := by
  refine ⟨fun hzero => ?_, fun hneg => ?_⟩
  · rw [hzero, checkModulus_zero]; rfl
  · rw [checkModulus_neg hneg]; rfl

/-- BMODMUL, once its modulus is checked (R301). -/
theorem execBmodmul_eq (rd rs1 rs2 rs3 : Reg) :
    exec (.bmodmul rd rs1 rs2 rs3) s = .next (s.complete (checkModulus (s.reg rs3) >>= fun _ =>
      s.putReg rd ((s.reg rs1 * s.reg rs2).fmod (s.reg rs3)))) := rfl

/-- Settles O36, by the sign of the modulus. -/
theorem bmodmulGivesTheExactResidue : Obligations.BmodmulGivesTheExactResidue := by
  intro s rd rs1 rs2 rs3 hm
  rw [execBmodmul_eq]
  obtain ⟨hzero, hneg⟩ := complete_checkModulus_error s (s.reg rs3)
    fun _ => s.putReg rd ((s.reg rs1 * s.reg rs2).fmod (s.reg rs3))
  refine ⟨fun h => congrArg _ (hzero h), fun h => congrArg _ (hneg h), fun hpos => ?_⟩
  refine ⟨_, Int.fmod_nonneg_of_pos (s.reg rs1 * s.reg rs2) hpos, Int.fmod_lt_of_pos _ hpos,
    Int.dvd_self_sub_fmod, ?_⟩
  rw [checkModulus_pos hpos, except_ok_bind]
  exact complete_putReg_of_lt s ((natAbs_fmod_lt _ hpos).trans hm)

/-- BMODEXP: the modulus is checked before the exponent (R302). -/
theorem execBmodexp_eq (rd rs1 rs2 rs3 : Reg) :
    exec (.bmodexp rd rs1 rs2 rs3) s = .next (s.complete (checkModulus (s.reg rs3) >>= fun _ =>
      need (!decide (s.reg rs2 < 0)) .domainError >>= fun _ =>
        s.putReg rd (modExp (s.reg rs1) (s.reg rs2).toNat (s.reg rs3)))) := rfl

/-- Settles O37: the errors by the signs of modulus and exponent, the value by `modExp_eq`. -/
theorem bmodexpIsTheModularPower : Obligations.BmodexpIsTheModularPower := by
  intro s rd rs1 rs2 rs3 hm
  rw [execBmodexp_eq]
  obtain ⟨hzero, hneg⟩ := complete_checkModulus_error s (s.reg rs3) fun _ =>
    need (!decide (s.reg rs2 < 0)) .domainError >>= fun _ =>
      s.putReg rd (modExp (s.reg rs1) (s.reg rs2).toNat (s.reg rs3))
  refine ⟨fun h => congrArg _ (hzero h), fun h => congrArg _ (hneg h), fun hpos he => ?_,
    fun hpos he => ?_⟩
  · rw [checkModulus_pos hpos, decide_eq_true he]; rfl
  · rw [checkModulus_pos hpos, decide_eq_false he.not_gt, except_ok_bind, Bool.not_false, need_true,
      except_ok_bind, modExp_eq hpos]
    exact complete_putReg_of_lt s (natAbs_emod_lt _ hpos hm)

/-- The gcd of two numbers in range is in range, also where the first is 0 and the gcd is the second. -/
theorem natGcd_lt {a b n : Nat} (ha : a < n) (hb : b < n) : a.gcd b < n := by
  rcases Nat.eq_zero_or_pos a with rfl | hpos
  · rwa [Nat.gcd_zero_left]
  · exact (Nat.gcd_le_left b hpos).trans_lt ha

/-- Settles O38: the gcd of two registers in range fits. -/
theorem bgcdIsTheGcd : Obligations.BgcdIsTheGcd := fun s _ _ _ ha hb =>
  complete_putReg_of_lt s (natGcd_lt ha hb)

/-- BMODINV, once its modulus is checked (R305). -/
theorem execBmodinv_eq (rd rs1 rs2 : Reg) :
    exec (.bmodinv rd rs1 rs2) s = .next (s.complete (checkModulus (s.reg rs2) >>= fun _ =>
      need ((extGcd ((s.reg rs1).fmod (s.reg rs2)) (s.reg rs2)).1 == 1) .noInverse >>= fun _ =>
        s.putReg rd ((extGcd ((s.reg rs1).fmod (s.reg rs2)) (s.reg rs2)).2.1.fmod (s.reg rs2)))) := rfl

/-- The gcd that BMODINV checks is that of its operands (R305). -/
theorem extGcd_fmod_gcd (a : Int) {m : Int} (hm : 0 < m) : (extGcd (a.fmod m) m).1 = a.gcd m := by
  rw [(extGcd_spec (Int.fmod_nonneg_of_pos a hm) hm).1, Int.fmod_eq_emod_of_nonneg _ hm.le, Int.gcd_emod]

/-- Settles O40: the errors by the sign of the modulus and the gcd, the value by Bézout's identity. -/
theorem bmodinvInvertsOrReportsNoInverse : Obligations.BmodinvInvertsOrReportsNoInverse := by
  intro s rd rs1 rs2 hm
  rw [execBmodinv_eq]
  obtain ⟨hzero, hneg⟩ := complete_checkModulus_error s (s.reg rs2) fun _ =>
    need ((extGcd ((s.reg rs1).fmod (s.reg rs2)) (s.reg rs2)).1 == 1) .noInverse >>= fun _ =>
      s.putReg rd ((extGcd ((s.reg rs1).fmod (s.reg rs2)) (s.reg rs2)).2.1.fmod (s.reg rs2))
  refine ⟨fun h => congrArg _ (hzero h), fun h => congrArg _ (hneg h), fun hpos hgcd => ?_,
    fun hpos hgcd => ?_⟩
  · rw [checkModulus_pos hpos, except_ok_bind, extGcd_fmod_gcd _ hpos,
      beq_eq_false_iff_ne.mpr (by exact_mod_cast hgcd)]
    rfl
  · refine ⟨_, Int.fmod_nonneg_of_pos _ hpos, Int.fmod_lt_of_pos _ hpos,
      extGcd_inverse _ hpos hgcd, ?_⟩
    rw [checkModulus_pos hpos, except_ok_bind, extGcd_fmod_gcd _ hpos, hgcd, Nat.cast_one, beq_self_eq_true,
      need_true, except_ok_bind]
    exact complete_putReg_of_lt s ((natAbs_fmod_lt _ hpos).trans hm)

end Sys2Proof.Machine
end

section
/-! PROOFS. Quadratic residues (41_bigint_modular.md): Euler's criterion on integers and in `ZMod p`, and
QRTEST. -/

namespace Sys2Proof.Machine

variable (s : State)

/-! ### The domain check and Euler's criterion -/

theorem badPrime_eq_true {p : Int} (h : p < 3 ∨ p % 2 = 0) : badPrime p = true := by
  simpa [badPrime, Int.fmod_eq_emod_of_nonneg] using h

theorem badPrime_eq_false {p : Int} (h3 : 3 ≤ p) (hodd : p % 2 = 1) : badPrime p = false := by
  simp [badPrime, Int.fmod_eq_emod_of_nonneg, h3.not_gt, hodd]

theorem eulerPower_eq {p : Int} (h3 : 3 ≤ p) (x : Int) :
    eulerPower x p = x ^ ((p - 1) / 2).toNat % p := modExp_eq (by omega) x _

/-- The verdict of R306 in terms of residues in `[0, p-1]`. -/
theorem residueVerdict_eq {p : Int} (h3 : 3 ≤ p) (a : Int) : residueVerdict a p =
    if a % p = 0 then .ok 0
    else if (a % p) ^ ((p - 1) / 2).toNat % p = 1 then .ok 1
    else if (a % p) ^ ((p - 1) / 2).toNat % p = p - 1 then .ok (-1)
    else .error .functionFailed := by
  simp only [residueVerdict, Int.fmod_eq_emod_of_nonneg a (b := p) (by omega), eulerPower_eq h3]

section Prime

variable (p : Nat)

/-- A residue is known by its class. -/
theorem emod_eq_iff_intCast (a : Int) {b : Int} (h0 : 0 ≤ b) (hb : b < p) :
    a % p = b ↔ (a : ZMod p) = b := by
  rw [ZMod.intCast_eq_intCast_iff', Int.emod_eq_of_lt h0 hb]

theorem toNat_half (hodd : p % 2 = 1) : (((p : Int) - 1) / 2).toNat = p / 2 := by omega

variable [Fact p.Prime]

/-- An odd prime meets the domain check of R306 and R307. -/
theorem odd_prime_bounds (hp : p ≠ 2) : 3 ≤ p ∧ p % 2 = 1 :=
  ⟨(Fact.out : p.Prime).two_le.lt_of_ne' hp, (Fact.out : p.Prime).eq_two_or_odd.resolve_left hp⟩

/-- Euler's power as a residue and as a class. -/
theorem euler_emod_iff (hp : p ≠ 2) (x : Int) {b : Int} (h0 : 0 ≤ b) (hb : b < p) :
    x ^ (((p : Int) - 1) / 2).toNat % p = b ↔ (x : ZMod p) ^ (p / 2) = b := by
  rw [emod_eq_iff_intCast p _ h0 hb, toNat_half p (odd_prime_bounds p hp).2, Int.cast_pow]

theorem euler_emod_one_iff (hp : p ≠ 2) (x : Int) :
    x ^ (((p : Int) - 1) / 2).toNat % p = 1 ↔ (x : ZMod p) ^ (p / 2) = 1 := by
  have := odd_prime_bounds p hp
  rw [euler_emod_iff p hp x one_pos.le (by omega), Int.cast_one]

theorem euler_emod_neg_one_iff (hp : p ≠ 2) (x : Int) :
    x ^ (((p : Int) - 1) / 2).toNat % p = p - 1 ↔ (x : ZMod p) ^ (p / 2) = -1 := by
  have := odd_prime_bounds p hp
  rw [euler_emod_iff p hp x (by omega) (by omega)]
  simp

theorem emod_eq_zero_iff (a : Int) : a % p = 0 ↔ (a : ZMod p) = 0 := by
  have := (Fact.out : p.Prime).pos
  rw [emod_eq_iff_intCast p a le_rfl (by omega), Int.cast_zero]

/-- Modulo an odd prime the verdict is the Legendre symbol (R306). -/
theorem residueVerdict_prime (hp : p ≠ 2) (a : Int) :
    residueVerdict a p = .ok (legendreSym p a) := by
  have h3 : (3 : Int) ≤ p := by exact_mod_cast (odd_prime_bounds p hp).1
  have : Fact (2 < p) := ⟨(odd_prime_bounds p hp).1⟩
  simp only [residueVerdict_eq h3, emod_eq_zero_iff, euler_emod_one_iff p hp,
    euler_emod_neg_one_iff p hp, ZMod.intCast_mod, ← legendreSym.eq_pow]
  by_cases hzero : (a : ZMod p) = 0
  · rw [if_pos hzero, (legendreSym.eq_zero_iff p a).mpr hzero]
  · rw [if_neg hzero]
    rcases legendreSym.eq_one_or_neg_one p hzero with hone | hneg
    · simp [hone]
    · simp [hneg, ZMod.neg_one_ne_one]

end Prime

/-! ### QRTEST -/

/-- QRTEST: the domain check, then the verdict to RES0 (R306). -/
theorem execQrtest_eq (rs1 rs2 : Reg) :
    exec (.qrtest rs1 rs2) s = .next (s.complete (need (!badPrime (s.reg rs2)) .domainError >>= fun _ =>
      residueVerdict (s.reg rs1) (s.reg rs2) >>= fun c => .ok (s.setRes (signedRes c) 0))) := rfl

theorem execQrtest_bad {rs1 rs2 : Reg} (h : s.reg rs2 < 3 ∨ s.reg rs2 % 2 = 0) :
    exec (.qrtest rs1 rs2) s = .next (s.ended 12) := by
  rw [execQrtest_eq, badPrime_eq_true h]; rfl

theorem execQrtest_good {rs1 rs2 : Reg} (h3 : 3 ≤ s.reg rs2) (hodd : s.reg rs2 % 2 = 1) :
    exec (.qrtest rs1 rs2) s = .next (s.complete (residueVerdict (s.reg rs1) (s.reg rs2) >>= fun c =>
      .ok (s.setRes (signedRes c) 0))) := by
  rw [execQrtest_eq, badPrime_eq_false h3 hodd]; rfl

/-- Settles O41: the verdict as R306 writes it, and modulo a prime the Legendre symbol. -/
theorem qrtestFollowsEulersCriterion : Obligations.QrtestFollowsEulersCriterion := by
  refine ⟨fun s rs1 rs2 => ⟨execQrtest_bad s, fun h3 hodd => ?_⟩, fun s rs1 rs2 p _ hp hreg => ?_⟩
  · rw [execQrtest_good s h3 hodd, residueVerdict_eq h3]
    split_ifs <;> rfl
  · obtain ⟨h3, hodd⟩ := odd_prime_bounds p hp
    rw [execQrtest_good s (by omega) (by omega), hreg, residueVerdict_prime p hp]
    rfl

end Sys2Proof.Machine
end

section
/-! PROOFS. SQRTMOD (41_bigint_modular.md, R307 and R308): the non-residue search, the Tonelli–Shanks loop as
a sequence of its variables, the root each path fixes, and that modulo a prime it is a root. -/

namespace Sys2Proof.Machine

variable (s : State)

/-! ### The non-residue search -/

/-- `z` is the first candidate from `y` on that is a non-residue by Euler's criterion, within the bounds of
the search, and every candidate before it is a residue (R307). -/
def NonResidueFrom (p : Int) (y z : Nat) : Prop :=
  y ≤ z ∧ z ≤ 65536 ∧ (z : Int) < p ∧ (z : Int) ^ ((p - 1) / 2).toNat % p = p - 1 ∧
    ∀ w : Nat, y ≤ w → w < z → (w : Int) ^ ((p - 1) / 2).toNat % p = 1

/-- One candidate of the search (R307). -/
theorem findNonResidue_succ {p : Int} (h3 : 3 ≤ p) (fuel y : Nat) :
    findNonResidue p (fuel + 1) y =
      if 65536 < y ∨ p ≤ y then .error .functionFailed
      else if (y : Int) ^ ((p - 1) / 2).toNat % p = p - 1 then .ok (y : Int)
      else if (y : Int) ^ ((p - 1) / 2).toNat % p ≠ 1 then .error .functionFailed
      else findNonResidue p fuel (y + 1 : Nat) := by
  have bound : (y : Int) > (Config.sqrtZMax : Int) ↔ 65536 < y := by
    show ((65536 : Nat) : Int) < y ↔ _
    exact Nat.cast_lt
  simp only [findNonResidue, eulerPower_eq h3, bound, ge_iff_le, Nat.cast_add, Nat.cast_one]

theorem findNonResidue_eq_ok {p : Int} (h3 : 3 ≤ p) {fuel y z : Nat} (hz : NonResidueFrom p y z)
    (hfuel : z < y + fuel) : findNonResidue p fuel y = .ok (z : Int) := by
  obtain ⟨hyz, hmax, hlt, hnon, hres⟩ := hz
  induction fuel generalizing y with
  | zero => omega
  | succ fuel ih =>
    rw [findNonResidue_succ h3, if_neg (by omega)]
    rcases hyz.eq_or_lt with rfl | hbefore
    · rw [if_pos hnon]
    · have hone := hres y le_rfl hbefore
      rw [if_neg (by omega), if_neg (by simp [hone])]
      exact ih (by omega) hbefore fun w hw => hres w (by omega)

/-- The search ends at the non-residue of `NonResidueFrom` or fails (R307). -/
theorem findNonResidue_error {p : Int} (h3 : 3 ≤ p) {fuel y : Nat} (hnone : ∀ z, ¬ NonResidueFrom p y z) :
    findNonResidue p fuel y = .error .functionFailed := by
  induction fuel generalizing y with
  | zero => rfl
  | succ fuel ih =>
    rw [findNonResidue_succ h3]
    split_ifs with hbound hnon hone
    · rfl
    · exact absurd ⟨le_rfl, by omega, by omega, hnon, fun w h h' => by omega⟩ (hnone y)
    · rfl
    · refine ih fun z ⟨hyz, hmax, hlt, hz, hres⟩ =>
        hnone z ⟨by omega, hmax, hlt, hz, fun w hw hwz => ?_⟩
      rcases hw.eq_or_lt with rfl | hafter
      · exact not_not.mp hone
      · exact hres w hafter hwz

/-! ### The Tonelli–Shanks loop -/

/-- The variables of the loop of R307. -/
structure TonelliVars where
  M : Nat
  c : Int
  t : Int
  R : Int

/-- The variables after a round in which `i` was found (R307). -/
def TonelliVars.next (p : Int) (v : TonelliVars) (i : Nat) : TonelliVars where
  M := i
  c := v.c ^ (2 ^ (v.M - i - 1)) % p * (v.c ^ (2 ^ (v.M - i - 1)) % p) % p
  t := v.t * (v.c ^ (2 ^ (v.M - i - 1)) % p * (v.c ^ (2 ^ (v.M - i - 1)) % p) % p) % p
  R := v.R * (v.c ^ (2 ^ (v.M - i - 1)) % p) % p

/-- `i` is the least exponent in `[1, M-1]` with `t^(2^i) = 1` (R307). -/
def TonelliVars.Finds (p : Int) (v : TonelliVars) (i : Nat) : Prop :=
  1 ≤ i ∧ i < v.M ∧ v.t ^ (2 ^ i) % p = 1 ∧ ∀ h, 1 ≤ h → h < i → v.t ^ (2 ^ h) % p ≠ 1

/-- One round of the loop of R307. -/
def TonelliStep (p : Int) (v w : TonelliVars) : Prop := v.t ≠ 1 ∧ ∃ i, v.Finds p i ∧ w = v.next p i

/-- No exponent in `[1, M-1]` gives `t^(2^i) = 1`. -/
def TonelliVars.Stuck (p : Int) (v : TonelliVars) : Prop :=
  v.t ≠ 1 ∧ ∀ i, 1 ≤ i → i < v.M → v.t ^ (2 ^ i) % p ≠ 1

theorem leastOrder_some {p : Int} (hp : 0 < p) {v : TonelliVars} {i : Nat}
    (h : leastOrder p v.t v.M = some i) : v.Finds p i := by
  obtain ⟨h1, hM⟩ := leastOrder_lt h
  obtain ⟨hone, -, hleast⟩ := List.find?_range'_eq_some.mp h
  rw [beq_iff_eq, modExp_eq hp] at hone
  refine ⟨h1, hM, hone, fun h h1 hi => ?_⟩
  simpa [modExp_eq hp] using hleast h h1 hi

theorem leastOrder_none {p : Int} (hp : 0 < p) {v : TonelliVars} (h : leastOrder p v.t v.M = none) :
    ∀ i, 1 ≤ i → i < v.M → v.t ^ (2 ^ i) % p ≠ 1 := fun i h1 hM => by
  simpa [modExp_eq hp] using List.find?_range'_eq_none.mp h i h1 (by omega)

/-- One round of `tonelliLoop`, in the terms of `TonelliVars`. -/
theorem tonelliLoop_next {p : Int} (hp : 0 < p) (fuel : Nat) {v : TonelliVars} {i : Nat} (ht : v.t ≠ 1)
    (hi : leastOrder p v.t v.M = some i) :
    tonelliLoop p (fuel + 1) v.M v.c v.t v.R =
      tonelliLoop p fuel (v.next p i).M (v.next p i).c (v.next p i).t (v.next p i).R := by
  simp only [tonelliLoop, if_neg ht, hi, modExp_eq hp, Int.fmod_eq_emod_of_nonneg _ hp.le,
    TonelliVars.next]

/-- A sequence with one more element in front. -/
def prepend {α : Type} (x : α) (σ : Nat → α) : Nat → α
  | 0 => x
  | j + 1 => σ j

/-- The loop runs through a sequence of rounds and ends with `t = 1` or stuck (R307). -/
theorem tonelliLoop_run {p : Int} (hp : 0 < p) (fuel : Nat) (v : TonelliVars) (hfuel : v.M ≤ fuel) :
    ∃ (m : Nat) (σ : Nat → TonelliVars), σ 0 = v ∧ (∀ j < m, TonelliStep p (σ j) (σ (j + 1))) ∧
      (((σ m).t = 1 ∧ tonelliLoop p fuel v.M v.c v.t v.R = .ok (σ m).R) ∨
        ((σ m).Stuck p ∧ tonelliLoop p fuel v.M v.c v.t v.R = .error .functionFailed)) := by
  induction fuel generalizing v with
  | zero =>
    refine ⟨0, fun _ => v, rfl, by simp, ?_⟩
    by_cases ht : v.t = 1
    · exact .inl ⟨ht, by simp [tonelliLoop, ht]⟩
    · exact .inr ⟨⟨ht, fun i _ hi => absurd (hi.trans_le hfuel) i.not_lt_zero⟩, by simp [tonelliLoop, ht]⟩
  | succ fuel ih =>
    by_cases ht : v.t = 1
    · exact ⟨0, fun _ => v, rfl, by simp, .inl ⟨ht, by simp [tonelliLoop, ht]⟩⟩
    cases hi : leastOrder p v.t v.M with
    | none =>
      exact ⟨0, fun _ => v, rfl, by simp,
        .inr ⟨⟨ht, leastOrder_none hp hi⟩, by simp [tonelliLoop, ht, hi]⟩⟩
    | some i =>
      have hfinds := leastOrder_some hp hi
      have hM : (v.next p i).M ≤ fuel := Nat.le_of_lt_succ (hfinds.2.1.trans_le hfuel)
      obtain ⟨m, σ, hstart, hsteps, hend⟩ := ih (v.next p i) hM
      rw [tonelliLoop_next hp fuel ht hi]
      refine ⟨m + 1, prepend v σ, rfl, fun j hj => ?_, hend⟩
      cases j with
      | zero => exact ⟨ht, i, hfinds, hstart⟩
      | succ j => exact hsteps j (by omega)

/-- A root the loop reaches is a residue. -/
theorem tonelliRun_R_bounds {p : Int} (hp : 0 < p) {m : Nat} {σ : Nat → TonelliVars}
    (hsteps : ∀ j < m, TonelliStep p (σ j) (σ (j + 1))) (h0 : 0 ≤ (σ 0).R ∧ (σ 0).R < p) :
    0 ≤ (σ m).R ∧ (σ m).R < p := by
  cases m with
  | zero => exact h0
  | succ m =>
    obtain ⟨-, i, -, hnext⟩ := hsteps m (by omega)
    rw [hnext]
    exact ⟨Int.emod_nonneg _ hp.ne', Int.emod_lt_of_pos _ hp⟩

/-- The variables before the first round, with `p - 1 = Q * 2^S` (R307). -/
def TonelliVars.start (p x : Int) (z Q S : Nat) : TonelliVars where
  M := S
  c := (z : Int) ^ Q % p
  t := x ^ Q % p
  R := x ^ ((Q + 1) / 2) % p

/-- The Tonelli–Shanks branch for a non-residue found: the run of its loop from the variables of
R307. -/
theorem tonelliShanks_run {p x : Int} (h3 : 3 ≤ p) {z : Nat} (hz : NonResidueFrom p 2 z) :
    ∃ (Q S m : Nat) (σ : Nat → TonelliVars), p - 1 = (Q : Int) * 2 ^ S ∧ Q % 2 = 1 ∧
      σ 0 = .start p x z Q S ∧ (∀ j < m, TonelliStep p (σ j) (σ (j + 1))) ∧
      (((σ m).t = 1 ∧ tonelliShanks x p = .ok (σ m).R) ∨
        ((σ m).Stuck p ∧ tonelliShanks x p = .error .functionFailed)) := by
  have hp : 0 < p := by omega
  obtain ⟨hsplit, hodd⟩ := splitTwo_spec (p - 1).toNat (p - 1).toNat (by omega) le_rfl
  generalize hQS : splitTwo (p - 1).toNat (p - 1).toNat = QS at hsplit hodd
  obtain ⟨Q, S⟩ := QS
  have hshanks : tonelliShanks x p = tonelliLoop p S S ((z : Int) ^ Q % p) (x ^ Q % p)
      (x ^ ((Q + 1) / 2) % p) := by
    have hfind := findNonResidue_eq_ok h3 (fuel := Config.sqrtZMax) hz
      (Nat.lt_of_le_of_lt hz.2.1 (by decide))
    simp only [tonelliShanks, hQS, ← modExp_eq hp]
    rw [show (2 : Int) = ((2 : Nat) : Int) from rfl, hfind]
  obtain ⟨m, σ, hstart, hsteps, hend⟩ := tonelliLoop_run hp S (.start p x z Q S) le_rfl
  refine ⟨Q, S, m, σ, ?_, hodd, hstart, hsteps, hshanks ▸ hend⟩
  rw [← Int.toNat_of_nonneg (a := p - 1) (by omega), hsplit]
  push_cast
  rfl

theorem tonelliShanks_error {p x : Int} (h3 : 3 ≤ p) (hnone : ∀ z, ¬ NonResidueFrom p 2 z) :
    tonelliShanks x p = .error .functionFailed := by
  simp only [tonelliShanks]
  rw [show (2 : Int) = ((2 : Nat) : Int) from rfl, findNonResidue_error h3 hnone]

end Sys2Proof.Machine
end

section
/-! PROOFS. Tonelli–Shanks modulo a prime (R308): the loop's invariant, by which it never gets stuck and ends
with a root. -/

namespace Sys2Proof.Machine

/-- One more unit in the exponent of 2 squares the power. -/
theorem pow_two_pow_eq_sq {α : Type} [Monoid α] (a : α) {i : Nat} (hi : 1 ≤ i) :
    a ^ (2 ^ i) = (a ^ (2 ^ (i - 1))) ^ 2 := by
  rw [← pow_mul, ← pow_succ, Nat.sub_add_cancel hi]

variable (p : Nat)

/-- The loop of R307 in `ZMod p`: `c` has order `2^M`, the order of `t` divides `2^(M-1)`, and `R^2 = x * t`. -/
structure TonelliInv (x : ZMod p) (v : TonelliVars) : Prop where
  M_pos : 1 ≤ v.M
  t_residue : 0 ≤ v.t ∧ v.t < p
  c_pow : (v.c : ZMod p) ^ (2 ^ (v.M - 1)) = -1
  t_pow : (v.t : ZMod p) ^ (2 ^ (v.M - 1)) = 1
  root : (v.R : ZMod p) ^ 2 = x * v.t

variable [Fact p.Prime] {x : ZMod p} {v w : TonelliVars}

theorem pow_emod_one_iff (t : Int) (n : Nat) : t ^ n % p = 1 ↔ (t : ZMod p) ^ n = 1 := by
  have := (Fact.out : p.Prime).one_lt
  rw [emod_eq_iff_intCast p _ one_pos.le (by omega), Int.cast_pow, Int.cast_one]

theorem TonelliInv.t_eq_one_iff (h : TonelliInv p x v) : v.t = 1 ↔ (v.t : ZMod p) = 1 := by
  have hone := pow_emod_one_iff p v.t 1
  rwa [pow_one, pow_one, Int.emod_eq_of_lt h.t_residue.1 h.t_residue.2] at hone

/-- The exponent just below the one that is found gives `-1` (R307). -/
theorem TonelliInv.t_pow_pred (h : TonelliInv p x v) (ht : v.t ≠ 1) {i : Nat} (hi : v.Finds p i) :
    (v.t : ZMod p) ^ (2 ^ (i - 1)) = -1 := by
  obtain ⟨h1, -, hone, hleast⟩ := hi
  have hsq : ((v.t : ZMod p) ^ (2 ^ (i - 1))) ^ 2 = 1 := by
    rw [← pow_two_pow_eq_sq _ h1, ← pow_emod_one_iff, hone]
  refine (sq_eq_one_iff.mp hsq).resolve_left ?_
  rcases h1.eq_or_lt with rfl | hlt
  · simpa using mt h.t_eq_one_iff.mpr ht
  · exact mt (pow_emod_one_iff p _ _).mpr (hleast (i - 1) (by omega) (by omega))

/-- The new `c`, the square of `c^(2^(M-i-1))`, has order `2^i`. -/
theorem TonelliInv.next_c_pow (h : TonelliInv p x v) {i : Nat} (hi : v.Finds p i) :
    (((v.c : ZMod p) ^ (2 ^ (v.M - i - 1))) ^ 2) ^ (2 ^ (i - 1)) = -1 := by
  obtain ⟨h1, hM, -⟩ := hi
  rw [← pow_mul, ← pow_mul, ← pow_succ', ← pow_add, show v.M - i - 1 + (i - 1 + 1) = v.M - 1 by omega,
    h.c_pow]

theorem TonelliInv.step (h : TonelliInv p x v) (hstep : TonelliStep p v w) : TonelliInv p x w := by
  obtain ⟨ht, i, hi, rfl⟩ := hstep
  have hp : (0 : Int) < p := by exact_mod_cast (Fact.out : p.Prime).pos
  have hc := h.next_c_pow p hi
  refine ⟨hi.1, ⟨Int.emod_nonneg _ hp.ne', Int.emod_lt_of_pos _ hp⟩, ?_, ?_, ?_⟩
  · simpa [TonelliVars.next, ← sq] using hc
  · simp [TonelliVars.next, ← sq, mul_pow _ _ (2 ^ (i - 1)), h.t_pow_pred p ht hi, hc]
  · simp [TonelliVars.next, mul_pow, h.root]
    ring

theorem TonelliInv.run {σ : Nat → TonelliVars} {m : Nat} (h : TonelliInv p x (σ 0))
    (hsteps : ∀ j < m, TonelliStep p (σ j) (σ (j + 1))) : TonelliInv p x (σ m) := by
  induction m with
  | zero => exact h
  | succ m ih => exact (ih fun j hj => hsteps j (by omega)).step p (hsteps m (by omega))

/-- Modulo a prime the loop always finds its exponent. -/
theorem TonelliInv.not_stuck (h : TonelliInv p x v) : ¬ v.Stuck p := by
  rintro ⟨ht, hnone⟩
  have hM : 1 ≤ v.M - 1 := by
    by_contra hM
    have hpow := h.t_pow
    rw [Nat.lt_one_iff.mp (not_le.mp hM), pow_zero, pow_one] at hpow
    exact ht (h.t_eq_one_iff.mpr hpow)
  exact hnone (v.M - 1) hM (by omega) ((pow_emod_one_iff p _ _).mpr h.t_pow)

/-- The invariant holds before the first round, for a residue and a non-residue by Euler's criterion. -/
theorem TonelliInv.start {y : Int} {z Q S : Nat} (hS : p / 2 = Q * 2 ^ (S - 1)) (hS1 : 1 ≤ S)
    (hodd : Q % 2 = 1) (hx : (y : ZMod p) ^ (p / 2) = 1) (hz : (z : ZMod p) ^ (p / 2) = -1) :
    TonelliInv p (y : ZMod p) (.start p y z Q S) := by
  have hp : (0 : Int) < p := by exact_mod_cast (Fact.out : p.Prime).pos
  refine ⟨hS1, ⟨Int.emod_nonneg _ hp.ne', Int.emod_lt_of_pos _ hp⟩, ?_, ?_, ?_⟩
  · simp [TonelliVars.start, ← pow_mul, ← hS, hz]
  · simp [TonelliVars.start, ← pow_mul, ← hS, hx]
  · have : (Q + 1) / 2 * 2 = Q + 1 := by omega
    simp [TonelliVars.start, ← pow_mul, this, ← pow_succ']

/-- An even `p - 1 = Q * 2^S` with `Q` odd is halved in its power of two. -/
theorem half_eq_of_split {p Q S : Nat} (hp : p % 2 = 1) (hodd : Q % 2 = 1)
    (hsplit : (p : Int) - 1 = (Q : Int) * 2 ^ S) : 1 ≤ S ∧ p / 2 = Q * 2 ^ (S - 1) := by
  cases S with
  | zero => omega
  | succ S =>
    rw [pow_succ, ← mul_assoc] at hsplit
    have : (p : Int) / 2 = ((Q * 2 ^ S : Nat) : Int) := by push_cast; omega
    exact ⟨by omega, by exact_mod_cast this⟩

/-- A root of a residue is a root of its class. -/
theorem sq_emod_eq_iff (p : Nat) (r y : Int) : r * r % p = y % p ↔ (r : ZMod p) ^ 2 = y := by
  rw [← ZMod.intCast_eq_intCast_iff', Int.cast_mul, sq]

/-- Modulo a prime the Tonelli–Shanks branch returns a root (R308). -/
theorem tonelliShanks_prime (hp : p ≠ 2) {y : Int} (hy : (y : ZMod p) ^ (p / 2) = 1) {z : Nat}
    (hz : NonResidueFrom p 2 z) :
    ∃ r, tonelliShanks y p = .ok r ∧ 0 ≤ r ∧ r < p ∧ r * r % p = y % p := by
  obtain ⟨h3, hpodd⟩ := odd_prime_bounds p hp
  have hpos : (0 : Int) < p := by omega
  obtain ⟨Q, S, m, σ, hsplit, hodd, hstart, hsteps, hend⟩ :=
    tonelliShanks_run (x := y) (by exact_mod_cast h3) hz
  obtain ⟨hS1, hS⟩ := half_eq_of_split hpodd hodd hsplit
  have hznon : (z : ZMod p) ^ (p / 2) = -1 := by
    simpa using (euler_emod_neg_one_iff p hp z).mp hz.2.2.2.1
  have hinv : TonelliInv p (y : ZMod p) (σ m) := by
    refine TonelliInv.run p ?_ hsteps
    rw [hstart]
    exact .start p hS hS1 hodd hy hznon
  rcases hend with ⟨ht, hok⟩ | ⟨hstuck, -⟩
  · obtain ⟨h0, hlt⟩ := tonelliRun_R_bounds hpos hsteps (by
      rw [hstart]; exact ⟨Int.emod_nonneg _ hpos.ne', Int.emod_lt_of_pos _ hpos⟩)
    exact ⟨_, hok, h0, hlt, (sq_emod_eq_iff p _ y).mpr
      (by rw [hinv.root, (hinv.t_eq_one_iff p).mp ht, mul_one])⟩
  · exact absurd hstuck (hinv.not_stuck p)

/-- Modulo a prime the fast path returns a root (R308). -/
theorem fastPath_root (h4 : p % 4 = 3) {y : Int} (hy : (y : ZMod p) ^ (p / 2) = 1) :
    y ^ (((p : Int) + 1) / 4).toNat % p * (y ^ (((p : Int) + 1) / 4).toNat % p) % p = y % p := by
  have hexp : (((p : Int) + 1) / 4).toNat * 2 = p / 2 + 1 := by omega
  rw [sq_emod_eq_iff, ZMod.intCast_mod, Int.cast_pow, ← pow_mul, hexp, pow_succ, hy, one_mul]

/-- Below the least non-square every candidate is a residue, so that the search ends at it (R307). -/
theorem exists_nonResidueFrom (hp : p ≠ 2)
    (hex : ∃ z : Nat, z ≤ 65536 ∧ z < p ∧ ¬ IsSquare (z : ZMod p)) :
    ∃ z, NonResidueFrom p 2 z := by
  classical
  obtain ⟨hmax, hlt, hnon⟩ := Nat.find_spec hex
  have hbelow := fun y => Nat.find_min hex (m := y)
  generalize Nat.find hex = z at hmax hlt hnon hbelow
  have hne : ∀ y : Nat, 0 < y → y < p → (y : ZMod p) ≠ 0 := fun y h0 hy hzero =>
    Nat.not_dvd_of_pos_of_lt h0 hy ((ZMod.natCast_eq_zero_iff y p).mp hzero)
  have h2 : 2 ≤ z := by
    by_contra hsmall
    obtain rfl | rfl : z = 0 ∨ z = 1 := by omega
    · exact hnon (by simp)
    · exact hnon (by simp)
  refine ⟨z, h2, hmax, by exact_mod_cast hlt, ?_, fun y hy hyz => ?_⟩
  · rw [euler_emod_neg_one_iff p hp, Int.cast_natCast]
    have hz0 := hne z (by omega) hlt
    exact (ZMod.pow_div_two_eq_neg_one_or_one p hz0).resolve_left fun hone =>
      hnon ((ZMod.euler_criterion p hz0).mpr hone)
  · rw [euler_emod_one_iff p hp, Int.cast_natCast]
    refine (ZMod.euler_criterion p (hne y (by omega) (by omega))).mp ?_
    by_contra hsq
    exact hbelow y hyz ⟨by omega, by omega, hsq⟩

end Sys2Proof.Machine
end

section
/-! PROOFS. SQRTMOD as a command (41_bigint_modular.md, R307 and R308): its domain check, the verdict of each
path, its final check, and the write. -/

namespace Sys2Proof.Machine

variable (s : State)

/-! ### The verdict -/

section Verdict

variable {p a : Int}

theorem sqrtMod_zero (h3 : 3 ≤ p) (hx : a % p = 0) : sqrtMod a p = .ok (0, 1, 0) := by
  rw [← Int.fmod_eq_emod_of_nonneg a (b := p) (by omega)] at hx
  simp only [sqrtMod, if_pos hx]

/-- The verdict for a value that is not 0 modulo `p`, in terms of residues in `[0, p-1]` (R307). -/
theorem sqrtMod_ne_zero (h3 : 3 ≤ p) (hx : a % p ≠ 0) : sqrtMod a p =
    if (a % p) ^ ((p - 1) / 2).toNat % p = p - 1 then .ok (0, 0, 0)
    else if (a % p) ^ ((p - 1) / 2).toNat % p ≠ 1 then .error .functionFailed
    else rootOfResidue (a % p) p >>= fun w =>
      if w.1 * w.1 % p = a % p then .ok (w.1, 1, w.2) else .error .functionFailed := by
  have hp : 0 ≤ p := by omega
  simp only [sqrtMod, Int.fmod_eq_emod_of_nonneg _ hp, eulerPower_eq h3, if_neg hx, ne_eq]
  cases rootOfResidue (a % p) p with
  | error e => rfl
  | ok w => simp only [except_ok_bind, ite_not]

/-- A residue's root is checked before it is reported (R307). -/
theorem sqrtMod_residue (h3 : 3 ≤ p) (hx : a % p ≠ 0)
    (he : (a % p) ^ ((p - 1) / 2).toNat % p = 1) {r : Int} {path : Nat}
    (hroot : rootOfResidue (a % p) p = .ok (r, path)) : sqrtMod a p =
      if r * r % p = a % p then .ok (r, 1, path) else .error .functionFailed := by
  rw [sqrtMod_ne_zero h3 hx, if_neg (by omega), if_neg (not_not.mpr he), hroot, except_ok_bind]

theorem sqrtMod_residue_error (h3 : 3 ≤ p) (hx : a % p ≠ 0)
    (he : (a % p) ^ ((p - 1) / 2).toNat % p = 1) {e : ErrCode}
    (hroot : rootOfResidue (a % p) p = .error e) : sqrtMod a p = .error e := by
  rw [sqrtMod_ne_zero h3 hx, if_neg (by omega), if_neg (not_not.mpr he), hroot, except_error_bind]

/-- The fast path (R307). -/
theorem rootOfResidue_fast (h3 : 3 ≤ p) (h4 : p % 4 = 3) (x : Int) :
    rootOfResidue x p = .ok (x ^ ((p + 1) / 4).toNat % p, 1) := by
  rw [rootOfResidue, Int.fmod_eq_emod_of_nonneg _ (by decide), if_pos h4, modExp_eq (by omega)]

/-- The other path (R307). -/
theorem rootOfResidue_shanks (h4 : p % 4 = 1) (x : Int) :
    rootOfResidue x p = tonelliShanks x p >>= fun r => .ok (r, 2) := by
  rw [rootOfResidue, Int.fmod_eq_emod_of_nonneg _ (by decide), if_neg (by omega)]
  cases tonelliShanks x p <;> rfl

/-- A verdict is a checked root with RES0 = 1, or 0 for a non-residue (R307). -/
theorem sqrtMod_ok_cases (h3 : 3 ≤ p) {r : Int} {found path : Nat}
    (h : sqrtMod a p = .ok (r, found, path)) :
    (found = 1 ∧ r * r % p = a % p) ∨ (found = 0 ∧ path = 0 ∧ r = 0) := by
  by_cases hx : a % p = 0
  · rw [sqrtMod_zero h3 hx] at h
    cases h
    exact .inl ⟨rfl, by simp [hx]⟩
  rw [sqrtMod_ne_zero h3 hx] at h
  split_ifs at h with hneg hone
  · cases h
    exact .inr ⟨rfl, rfl, rfl⟩
  · cases hroot : rootOfResidue (a % p) p with
    | error e => rw [hroot] at h; cases h
    | ok w =>
      rw [hroot, except_ok_bind] at h
      split_ifs at h with hcheck
      cases h
      exact .inl ⟨rfl, hcheck⟩

end Verdict

/-! ### The command -/

/-- The end of SQRTMOD with `r`, RES0 and RES1 (R307, R502). -/
def State.rooted (rd : Reg) (r : Int) (found path : Word) : State :=
  ({ s with regs := s.regs.set rd r, res0 := found, res1 := path } : State).ended 0

theorem natAbs_zero_lt (n : Nat) : (0 : Int).natAbs < 2 ^ n := Nat.two_pow_pos n

/-- SQRTMOD: the domain check, the verdict, then the write (R307). -/
theorem execSqrtmod_eq (rd rs1 rs2 : Reg) :
    exec (.sqrtmod rd rs1 rs2) s = .next (s.complete (need (!badPrime (s.reg rs2)) .domainError >>= fun _ =>
      sqrtMod (s.reg rs1) (s.reg rs2) >>= fun w =>
        s.writeReg rd w.1 >>= fun t => .ok (t.setRes (natRes w.2.1) (natRes w.2.2)))) := rfl

theorem execSqrtmod_bad {rd rs1 rs2 : Reg} (h : s.reg rs2 < 3 ∨ s.reg rs2 % 2 = 0) :
    exec (.sqrtmod rd rs1 rs2) s = .next (s.ended 12) := by
  rw [execSqrtmod_eq, badPrime_eq_true h]; rfl

section Good

variable {s} {rd rs1 rs2 : Reg} (h3 : 3 ≤ s.reg rs2) (hodd : s.reg rs2 % 2 = 1)
include h3 hodd

theorem execSqrtmod_error {e : ErrCode} (h : sqrtMod (s.reg rs1) (s.reg rs2) = .error e) :
    exec (.sqrtmod rd rs1 rs2) s = .next (s.ended e.code) := by
  rw [execSqrtmod_eq, badPrime_eq_false h3 hodd, h]; rfl

theorem execSqrtmod_ok {r : Int} {found path : Nat}
    (h : sqrtMod (s.reg rs1) (s.reg rs2) = .ok (r, found, path)) (hr : r.natAbs < 2 ^ 8192) :
    exec (.sqrtmod rd rs1 rs2) s = .next (s.rooted rd r (natRes found) (natRes path)) := by
  rw [← cap_eq] at hr
  rw [execSqrtmod_eq, badPrime_eq_false h3 hodd, h, Bool.not_false, need_true, except_ok_bind,
    except_ok_bind, writeReg_ok s hr]
  rfl

theorem execSqrtmod_tooLarge {r : Int} {found path : Nat}
    (h : sqrtMod (s.reg rs1) (s.reg rs2) = .ok (r, found, path)) (hr : 2 ^ 8192 ≤ r.natAbs) :
    exec (.sqrtmod rd rs1 rs2) s = .next (s.ended 9) := by
  rw [← cap_eq] at hr
  rw [execSqrtmod_eq, badPrime_eq_false h3 hodd, h, Bool.not_false, need_true, except_ok_bind,
    except_ok_bind, writeReg_error s hr]
  rfl

variable (hp : (s.reg rs2).natAbs < 2 ^ 8192) (hx : s.reg rs1 % s.reg rs2 ≠ 0)
  (he : (s.reg rs1 % s.reg rs2) ^ ((s.reg rs2 - 1) / 2).toNat % s.reg rs2 = 1)
include hp hx he

/-- A residue's root in `[0, p-1]` is written if it passes the final check (R307). -/
theorem execSqrtmod_checked {r : Int} {path : Nat}
    (hroot : rootOfResidue (s.reg rs1 % s.reg rs2) (s.reg rs2) = .ok (r, path))
    (h0 : 0 ≤ r) (hlt : r < s.reg rs2) :
    exec (.sqrtmod rd rs1 rs2) s =
      if r * r % s.reg rs2 = s.reg rs1 % s.reg rs2 then .next (s.rooted rd r 1 (natRes path))
      else .next (s.ended 8) := by
  have hsqrt := sqrtMod_residue h3 hx he hroot
  split_ifs at hsqrt ⊢ with hcheck
  · exact execSqrtmod_ok h3 hodd hsqrt ((Int.natAbs_lt_natAbs_of_nonneg_of_lt h0 hlt).trans hp)
  · exact execSqrtmod_error h3 hodd hsqrt

/-- The fast path (R307). -/
theorem execSqrtmod_fast (h4 : s.reg rs2 % 4 = 3) :
    let r := (s.reg rs1 % s.reg rs2) ^ ((s.reg rs2 + 1) / 4).toNat % s.reg rs2
    exec (.sqrtmod rd rs1 rs2) s =
      if r * r % s.reg rs2 = s.reg rs1 % s.reg rs2 then .next (s.rooted rd r 1 1)
      else .next (s.ended 8) :=
  execSqrtmod_checked h3 hodd hp hx he (rootOfResidue_fast h3 h4 _) (Int.emod_nonneg _ (by omega))
    (Int.emod_lt_of_pos _ (by omega))

/-- The other path, where the loop ends with a root (R307). -/
theorem execSqrtmod_shanks (h4 : s.reg rs2 % 4 = 1) {r : Int}
    (hok : tonelliShanks (s.reg rs1 % s.reg rs2) (s.reg rs2) = .ok r) (h0 : 0 ≤ r)
    (hlt : r < s.reg rs2) :
    exec (.sqrtmod rd rs1 rs2) s =
      if r * r % s.reg rs2 = s.reg rs1 % s.reg rs2 then .next (s.rooted rd r 1 2)
      else .next (s.ended 8) :=
  execSqrtmod_checked h3 hodd hp hx he (by rw [rootOfResidue_shanks h4, hok]; rfl) h0 hlt

omit hp in
theorem execSqrtmod_shanks_error (h4 : s.reg rs2 % 4 = 1)
    (herr : tonelliShanks (s.reg rs1 % s.reg rs2) (s.reg rs2) = .error .functionFailed) :
    exec (.sqrtmod rd rs1 rs2) s = .next (s.ended 8) :=
  execSqrtmod_error h3 hodd
    (sqrtMod_residue_error h3 hx he (by rw [rootOfResidue_shanks h4, herr]; rfl))

end Good

/-- The errors of R501 are not 0. -/
theorem errCode_ne_zero (e : ErrCode) : e.code ≠ 0 := by cases e <;> decide

/-- SQRTMOD that ends without an error has written a root that passed the final check, or 0 for a
non-residue (R307). -/
theorem execSqrtmod_success {s t : State} {rd rs1 rs2 : Reg} (h : exec (.sqrtmod rd rs1 rs2) s = .next t)
    (hok : t.errcode = 0) :
    (t.res0 = 1 ∧ t.reg rd * t.reg rd % s.reg rs2 = s.reg rs1 % s.reg rs2) ∨
    (t.res0 = 0 ∧ t.res1 = 0 ∧ t.reg rd = 0) := by
  have notEnded : ∀ e : ErrCode, exec (.sqrtmod rd rs1 rs2) s ≠ .next (s.ended e.code) := fun e he => by
    rw [he] at h
    cases h
    exact errCode_ne_zero e hok
  by_cases hbad : s.reg rs2 < 3 ∨ s.reg rs2 % 2 = 0
  · exact absurd (execSqrtmod_bad s hbad) (notEnded .domainError)
  have h3 : 3 ≤ s.reg rs2 := by omega
  have hodd : s.reg rs2 % 2 = 1 := by omega
  rcases hsqrt : sqrtMod (s.reg rs1) (s.reg rs2) with e | ⟨r, found, path⟩
  · exact absurd (execSqrtmod_error h3 hodd hsqrt) (notEnded e)
  rcases lt_or_ge r.natAbs (2 ^ 8192) with hr | hr
  · rw [execSqrtmod_ok h3 hodd hsqrt hr] at h
    cases h
    have hreg : (s.rooted rd r (natRes found) (natRes path)).reg rd = r := State.reg_setReg_same s rd r
    rw [hreg]
    rcases sqrtMod_ok_cases h3 hsqrt with ⟨rfl, hroot⟩ | ⟨rfl, rfl, rfl⟩
    · exact .inl ⟨rfl, hroot⟩
    · exact .inr ⟨rfl, rfl, rfl⟩
  · exact absurd (execSqrtmod_tooLarge h3 hodd hsqrt hr) (notEnded .capacityExceeded)

/-- SQRTMOD of a multiple of `p` (R307). -/
theorem execSqrtmod_zero {rd rs1 rs2 : Reg} (h3 : 3 ≤ s.reg rs2) (hodd : s.reg rs2 % 2 = 1)
    (hx : s.reg rs1 % s.reg rs2 = 0) : exec (.sqrtmod rd rs1 rs2) s = .next (s.rooted rd 0 1 0) :=
  execSqrtmod_ok h3 hodd (sqrtMod_zero h3 hx) (natAbs_zero_lt 8192)

/-- SQRTMOD of a non-residue by Euler's criterion (R307). -/
theorem execSqrtmod_nonresidue {rd rs1 rs2 : Reg} (h3 : 3 ≤ s.reg rs2) (hodd : s.reg rs2 % 2 = 1)
    (hx : s.reg rs1 % s.reg rs2 ≠ 0)
    (he : (s.reg rs1 % s.reg rs2) ^ ((s.reg rs2 - 1) / 2).toNat % s.reg rs2 = s.reg rs2 - 1) :
    exec (.sqrtmod rd rs1 rs2) s = .next (s.rooted rd 0 0 0) :=
  execSqrtmod_ok h3 hodd (by rw [sqrtMod_ne_zero h3 hx, if_pos he]) (natAbs_zero_lt 8192)

/-! ### Prime moduli -/

/-- SQRTMOD of a non-residue modulo an odd prime (R308). -/
theorem execSqrtmod_prime_nonresidue (rd : Reg) {rs1 rs2 : Reg} {p : Nat} [Fact p.Prime] (hp : p ≠ 2)
    (hreg : s.reg rs2 = p) (hsq : ¬ IsSquare ((s.reg rs1 : Int) : ZMod p)) :
    exec (.sqrtmod rd rs1 rs2) s = .next (s.rooted rd 0 0 0) := by
  obtain ⟨h3, hodd⟩ := odd_prime_bounds p hp
  have hne : ((s.reg rs1 : Int) : ZMod p) ≠ 0 := fun hzero => hsq (hzero ▸ IsSquare.zero)
  refine execSqrtmod_nonresidue s (by omega) (by omega) ?_ ?_
  · rw [hreg]
    exact mt (emod_eq_zero_iff p _).mp hne
  · rw [hreg, euler_emod_neg_one_iff p hp, ZMod.intCast_mod]
    exact (ZMod.pow_div_two_eq_neg_one_or_one p hne).resolve_left fun hone =>
      hsq ((ZMod.euler_criterion p hne).mpr hone)

/-- Modulo an odd prime, within the search bound, the path of R307 gives a root of a residue (R308). -/
theorem rootOfResidue_prime {p : Nat} [Fact p.Prime] (hp : p ≠ 2)
    (hsearch : p % 4 = 3 ∨ ∃ z : Nat, z ≤ 65536 ∧ z < p ∧ ¬ IsSquare (z : ZMod p))
    {x : Int} (hx : (x : ZMod p) ^ (p / 2) = 1) :
    ∃ r : Int, rootOfResidue x p = .ok (r, if p % 4 = 3 then 1 else 2) ∧ 0 ≤ r ∧ r < p ∧
      r * r % p = x % p := by
  obtain ⟨h3, hodd⟩ := odd_prime_bounds p hp
  by_cases h4 : p % 4 = 3
  · rw [if_pos h4]
    exact ⟨_, rootOfResidue_fast (by omega) (by omega) x, Int.emod_nonneg _ (by omega),
      Int.emod_lt_of_pos _ (by omega), fastPath_root p h4 hx⟩
  · obtain ⟨z, hz⟩ := exists_nonResidueFrom p hp (hsearch.resolve_left h4)
    obtain ⟨r, hok, hr⟩ := tonelliShanks_prime p hp hx hz
    rw [if_neg h4, rootOfResidue_shanks (by omega), hok]
    exact ⟨r, rfl, hr⟩

/-- SQRTMOD of a residue modulo an odd prime, within the search bound (R308). -/
theorem execSqrtmod_prime_residue (rd : Reg) {rs1 rs2 : Reg} {p : Nat} [Fact p.Prime] (hp : p ≠ 2)
    (hmax : p < 2 ^ 8192) (hreg : s.reg rs2 = p)
    (hsearch : p % 4 = 3 ∨ ∃ z : Nat, z ≤ 65536 ∧ z < p ∧ ¬ IsSquare (z : ZMod p))
    (hsq : IsSquare ((s.reg rs1 : Int) : ZMod p)) :
    ∃ r : Int, 0 ≤ r ∧ r < p ∧ r * r % p = s.reg rs1 % p ∧
      exec (.sqrtmod rd rs1 rs2) s = .next (s.rooted rd r 1
        (if s.reg rs1 % p = 0 then 0 else if p % 4 = 3 then 1 else 2)) := by
  obtain ⟨h3, hodd⟩ := odd_prime_bounds p hp
  have h3' : 3 ≤ s.reg rs2 := by omega
  have hodd' : s.reg rs2 % 2 = 1 := by omega
  by_cases hx : s.reg rs1 % p = 0
  · rw [if_pos hx]
    exact ⟨0, le_rfl, by omega, by simp [hx], execSqrtmod_zero s h3' hodd' (by rwa [hreg])⟩
  have heuler : ((s.reg rs1 % p : Int) : ZMod p) ^ (p / 2) = 1 := by
    rw [ZMod.intCast_mod]
    exact (ZMod.euler_criterion p (mt (emod_eq_zero_iff p _).mpr hx)).mp hsq
  obtain ⟨r, hroot, h0, hlt, hcheck⟩ := rootOfResidue_prime hp hsearch heuler
  rw [Int.emod_emod] at hcheck
  have hexec := execSqrtmod_checked (rd := rd) (rs1 := rs1) h3' hodd' (by rwa [hreg, Int.natAbs_natCast])
    (by rwa [hreg]) (by rwa [hreg, euler_emod_one_iff p hp]) (by rwa [hreg]) h0 (by rwa [hreg])
  rw [hreg, if_pos hcheck] at hexec
  rw [if_neg hx]
  exact ⟨r, h0, hlt, hcheck, hexec.trans (by split <;> rfl)⟩

/-! ### The statement -/

/-- Settles O42: modulo a prime by the loop's invariant, in general by the path the rule takes. -/
theorem sqrtmodFindsRootsModuloPrimes : Obligations.SqrtmodFindsRootsModuloPrimes := by
  refine ⟨fun s rd rs1 rs2 p _ hp hmax hreg hsearch => ⟨?_, ?_⟩,
    fun s rd rs1 rs2 => execSqrtmod_bad s, ?_, fun s t rd rs1 rs2 => execSqrtmod_success⟩
  · exact execSqrtmod_prime_nonresidue s rd hp hreg
  · exact execSqrtmod_prime_residue s rd hp hmax hreg hsearch
  intro s rd rs1 rs2 p x half e done checked leastNonResidue h3 hodd hrange
  refine ⟨fun hx => ?_, fun hx he => ?_, fun hx he he1 => ?_, fun hx he h4 => ?_,
    fun hx he h4 hnone => ?_, fun z hx he h4 hz => ?_⟩
  · exact execSqrtmod_zero s h3 hodd hx
  · exact execSqrtmod_nonresidue s h3 hodd hx he
  · exact execSqrtmod_error h3 hodd (by rw [sqrtMod_ne_zero h3 hx, if_neg he, if_pos he1])
  · exact execSqrtmod_fast h3 hodd hrange hx he h4
  · exact execSqrtmod_shanks_error h3 hodd hx he h4 (tonelliShanks_error h3 hnone)
  · obtain ⟨Q, S, m, σ, hsplit, hQ, hstart, hsteps, hend⟩ := tonelliShanks_run (x := x) h3 hz
    have hpos : 0 < p := by omega
    have hbounds : 0 ≤ (σ m).R ∧ (σ m).R < p := tonelliRun_R_bounds hpos hsteps (by
      rw [hstart]; exact ⟨Int.emod_nonneg _ hpos.ne', Int.emod_lt_of_pos _ hpos⟩)
    refine ⟨Q, S, m, fun j => (σ j).M, fun j => (σ j).c, fun j => (σ j).t, fun j => (σ j).R,
      hsplit, hQ, congrArg _ hstart, congrArg _ hstart, congrArg _ hstart, congrArg _ hstart,
      fun j hj => ?_, ?_⟩
    · obtain ⟨ht, i, ⟨h1, hM, hone, hleast⟩, hnext⟩ := hsteps j hj
      exact ⟨ht, i, h1, hM, hone, hleast, congrArg _ hnext, congrArg _ hnext,
        by simp only [hnext]; rfl, congrArg _ hnext⟩
    · rcases hend with ⟨ht, hok⟩ | ⟨⟨ht, hstuck⟩, herr⟩
      · exact .inl ⟨ht, execSqrtmod_shanks h3 hodd hrange hx he h4 hok hbounds.1 hbounds.2⟩
      · exact .inr ⟨ht, hstuck, execSqrtmod_shanks_error h3 hodd hx he h4 herr⟩

end Sys2Proof.Machine
end

section
/-! PROOFS. AESBLK (43_aes_core.md, R420): its checks in order, what it does with the key and the block its
ranges hold, and the transformed block at the destination. -/

namespace Sys2Proof.Machine

variable (s : State)

/-! ### The checks -/

/-- The key lengths of R405. -/
theorem keyLenOk_iff {n : Nat} : keyLenOk n = true ↔ n = 16 ∨ n = 24 ∨ n = 32 := by
  simp [keyLenOk, or_assoc]

/-- The key length check, then the rest (R405). -/
theorem checkKeyLen_bind {α : Type} (n : Nat) (k : Unit → Except Stop α) :
    checkKeyLen n >>= k =
      if n = 16 ∨ n = 24 ∨ n = 32 then k () else .error (.raise .keySizeRange) := by
  rw [checkKeyLen]
  split
  case isTrue h => rw [keyLenOk_iff.mpr h, require_true, except_ok_bind]
  case isFalse h =>
    rw [Bool.eq_false_iff.mpr (mt keyLenOk_iff.mp h), require_false, except_error_bind]

/-- A range check, then the rest (R103). -/
theorem checkRange_bind {α : Type} (a n : Nat) (k : Unit → Except Stop α) :
    checkRange a n >>= k = if a + n ≤ 65536 then k () else .error (.raise .addressRange) := by
  split
  case isTrue h => rw [(checkRange_eq_ok (u := ())).mpr h, except_ok_bind]
  case isFalse h => rw [checkRange_raises (not_le.mp h), except_error_bind]

/-- AESBLK's checks and reads: the key length, then the three ranges, which raise the same error, then the
key and the block (R420). -/
theorem blockOperands_eq (n : Nat) : s.blockOperands n =
    if n = 16 ∨ n = 24 ∨ n = 32 then
      if s.latched.arg4.toNat + n ≤ 65536 ∧ s.latched.arg0.toNat + 16 ≤ 65536 ∧
          s.latched.arg2.toNat + 16 ≤ 65536 then
        s.read s.latched.arg4.toNat n >>= fun key =>
          s.read s.latched.arg0.toNat 16 >>= fun input => .ok (key, input)
      else .error (.raise .addressRange)
    else .error (.raise .keySizeRange) := by
  simp only [State.blockOperands, checkKeyLen_bind, checkRange_bind, ite_and]
  rfl

/-! ### The command -/

/-- The sixteen bytes of a block (R404). -/
@[simp] theorem Block.toBytes_length (b : Block) : b.toBytes.length = 16 := rfl

/-- AESBLK completes from its operands by writing the transformed block (R420). -/
theorem execAesblk_eq (dec : Bool) (imm : BitVec 32) :
    exec (.aesblk dec imm) s = s.finish (s.blockOperands imm.toNat) fun (key, input) =>
      ((s.write s.latched.arg2.toNat
        (if dec then aesD key (Block.ofBytes input)
          else aesE key (Block.ofBytes input)).toBytes).setRes 0 0).succeed := rfl

/-- The end of a command that wrote `bytes` at `a` and its two results (R47, R104, R502): nothing but the
bytes of the range, the results and the completion changes. -/
theorem succeed_wrote (hwf : Memory.wf s.buf) (a : Nat) {bytes : List Byte} {n : Nat}
    (hn : bytes.length = n) (r0 r1 : Word) :
    let t := ((s.write a bytes).setRes r0 r1).succeed
    t = ({ s with buf := t.buf, res0 := r0, res1 := r1 } : State).ended 0 ∧
      ∀ x, memGet t.buf x =
        if a ≤ x ∧ x < a + n then bytes[x - a]? else memGet s.buf x :=
  ⟨rfl, hn ▸ memGet_memWrite bytes hwf.1 a⟩

/-- Settles O51: the checks in order; both reads precede the write, so the ranges may overlap. -/
theorem aesblkTransformsOneBlock : Obligations.AesblkTransformsOneBlock := by
  intro s dec imm hwf L src dst ka lenOk rangesOk
  rw [execAesblk_eq, blockOperands_eq]
  refine ⟨fun hlen => ?_, fun hlen hranges => ?_,
    fun key input hlen hranges hkey hinput holdsKey holdsInput => ?_⟩
  · rw [if_neg hlen]; rfl
  · rw [if_pos hlen, if_neg hranges]; rfl
  · rw [if_pos hlen, if_pos hranges, (read_eq_ok s hkey).mpr holdsKey, except_ok_bind,
      (read_eq_ok s hinput).mpr holdsInput, except_ok_bind, finish_ok]
    exact ⟨_, rfl, succeed_wrote s hwf dst (Block.toBytes_length _) 0 0⟩

end Sys2Proof.Machine
end

section
/-! PROOFS. The stream commands (44_aes_modes.md, R452 to R465): the lengths of chunks, the checks of each
command in order, what it does with the bytes its ranges hold, and AESCLR and AESLEN. -/

namespace Sys2Proof.Machine

variable (s : State)

/-! ### Lengths of chunks -/

/-- The padded length (R452). -/
theorem pad16_eq (n : Nat) : pad16 n = 16 * (n / 16 + 1) := by
  unfold pad16 padLen
  omega

/-- Chaining gives one block for each block (R454). -/
@[simp] theorem chain_length (step : Block → Block → Block × Block) (fb : Block) (bs : List Block) :
    (chain step fb bs).1.length = bs.length := by
  induction bs generalizing fb with
  | nil => rfl
  | cons b bs ih => simp [chain, ih]

@[simp] theorem blocksOf_length (m : Nat) (bytes : List Byte) : (blocksOf m bytes).length = m := by
  induction m generalizing bytes with
  | zero => rfl
  | succ m ih => simp [blocksOf, ih]

@[simp] theorem bytesOfBlocks_length (bs : List Block) : (bytesOfBlocks bs).length = 16 * bs.length := by
  induction bs with
  | nil => rfl
  | cons b bs ih =>
    rw [bytesOfBlocks, List.flatMap_cons, List.length_append, ← bytesOfBlocks, ih, Block.toBytes_length,
      List.length_cons]
    omega

/-- A ciphertext has the padded length of its chunk (R458). -/
theorem encryptChunk_length (mode : Mode) (key : List Byte) (fb : Block) (p : List Byte) :
    (encryptChunk mode key fb p).1.length = 16 * (p.length / 16 + 1) := by
  simp [encryptChunk, encBlocks, pad16_eq]

/-- Decryption keeps the length of a ciphertext of whole blocks (R458). -/
theorem decryptChunk_length (mode : Mode) (key : List Byte) (fb : Block) {c : List Byte}
    (h : c.length % 16 = 0) : (decryptChunk mode key fb c).1.length = c.length := by
  simp only [decryptChunk, decBlocks, bytesOfBlocks_length, chain_length, blocksOf_length]
  omega

/-! ### The checks of the stream commands -/

/-- A check, then the rest (R500). -/
theorem require_bind {α : Type} (c : Bool) (e : ErrCode) (k : Unit → Except Stop α) :
    require c e >>= k = if c = true then k () else .error (.raise e) := by
  cases c <;> rfl

/-- The check of a Continue's context, then the rest (R461, R463). -/
theorem checkStream_bind {α : Type} (c : Ctx) (dir : Dir) (k : Unit → Except Stop α) :
    checkStream c dir >>= k =
      if c.active = true ∧ c.dir = dir then k () else .error (.raise .streamNotStarted) := by
  simp only [checkStream, require_bind, Bool.and_eq_true, beq_iff_eq]

/-- A read that raises an error in the end raises it after the read: the read itself only faults (R555). -/
theorem read_bind_raise {s : State} {α : Type} {a n : Nat} {k : List Byte → Except Stop α} {e : ErrCode}
    (h : s.read a n >>= k = .error (.raise e)) :
    ∃ bytes, k bytes = .error (.raise e) := by
  cases hr : s.read a n with
  | ok bytes => exact ⟨bytes, by rwa [hr] at h⟩
  | error stop =>
    obtain ⟨x, -, -, -, rfl⟩ := read_error s hr
    rw [hr] at h
    cases h

/-- A read that succeeds in the end has read as many bytes as asked for (R104). -/
theorem read_bind_ok {s : State} {α : Type} {a n : Nat} {k : List Byte → Except Stop α} {y : α}
    (h : s.read a n >>= k = .ok y) : ∃ bytes : List Byte, bytes.length = n ∧ k bytes = .ok y := by
  cases hr : s.read a n with
  | ok bytes => exact ⟨bytes, read_length s hr, by rwa [hr] at h⟩
  | error stop => rw [hr] at h; cases h

/-- A Start's operands: the key, then the input (R460, R462). -/
def State.readKeyThenInput (s : State) (keylen : Nat) : Except Stop (List Byte × List Byte) :=
  s.read s.latched.arg4.toNat keylen >>= fun key =>
    s.read s.latched.arg0.toNat s.latched.arg1.toNat >>= fun x => .ok (key, x)

theorem readKeyThenInput_of_holds {s : State} {key x : List Byte} {n : Nat} (hkey : key.length = n)
    (hx : x.length = s.latched.arg1.toNat) (holdsKey : s.Holds s.latched.arg4.toNat key)
    (holdsX : s.Holds s.latched.arg0.toNat x) : s.readKeyThenInput n = .ok (key, x) := by
  rw [State.readKeyThenInput, (read_eq_ok s hkey).mpr holdsKey, except_ok_bind,
    (read_eq_ok s hx).mpr holdsX, except_ok_bind]

theorem readKeyThenInput_length {s : State} {n : Nat} {key x : List Byte}
    (h : s.readKeyThenInput n = .ok (key, x)) : x.length = s.latched.arg1.toNat := by
  obtain ⟨key', -, h⟩ := read_bind_ok h
  obtain ⟨x', hx, h⟩ := read_bind_ok h
  cases h
  exact hx

theorem readKeyThenInput_not_raise {s : State} {n : Nat} {e : ErrCode} :
    s.readKeyThenInput n ≠ .error (.raise e) := by
  intro h
  obtain ⟨key, h⟩ := read_bind_raise h
  obtain ⟨x, h⟩ := read_bind_raise h
  cases h

/-- AESENCS's checks in order, then its reads (R460). -/
theorem encStartOperands_eq (mode : Mode) (n : Nat) : s.encStartOperands mode n =
    if n = 16 ∨ n = 24 ∨ n = 32 then
      if s.latched.arg0.toNat + s.latched.arg1.toNat ≤ 65536 ∧
          s.latched.arg2.toNat + s.latched.arg3.toNat ≤ 65536 ∧
          s.latched.arg4.toNat + n ≤ 65536 then
        if s.latched.arg1.toNat ≠ 0 then
          if pad16 s.latched.arg1.toNat + ivLen mode ≤ s.latched.arg3.toNat then s.readKeyThenInput n
          else .error (.raise .bufferTooSmall)
        else .error (.raise .emptyBuffer)
      else .error (.raise .addressRange)
    else .error (.raise .keySizeRange) := by
  simp only [State.encStartOperands, checkKeyLen_bind, checkRange_bind, require_bind, ite_and,
    bne_iff_ne, decide_eq_true_eq]
  rfl

/-- AESENCC's checks in order, then its read (R461). -/
theorem encContOperands_eq (k : CtxIx) : s.encContOperands k =
    if (s.ctx k).active = true ∧ (s.ctx k).dir = .enc then
      if s.latched.arg0.toNat + s.latched.arg1.toNat ≤ 65536 ∧
          s.latched.arg2.toNat + s.latched.arg3.toNat ≤ 65536 then
        if s.latched.arg1.toNat ≠ 0 then
          if pad16 s.latched.arg1.toNat ≤ s.latched.arg3.toNat then
            s.read s.latched.arg0.toNat s.latched.arg1.toNat
          else .error (.raise .bufferTooSmall)
        else .error (.raise .emptyBuffer)
      else .error (.raise .addressRange)
    else .error (.raise .streamNotStarted) := by
  simp only [State.encContOperands, checkStream_bind, checkRange_bind, require_bind, ite_and,
    bne_iff_ne, decide_eq_true_eq]
  rfl

/-- AESDECS's checks in order, then its reads (R462). -/
theorem decStartOperands_eq (mode : Mode) (n : Nat) : s.decStartOperands mode n =
    if n = 16 ∨ n = 24 ∨ n = 32 then
      if s.latched.arg0.toNat + s.latched.arg1.toNat ≤ 65536 ∧
          s.latched.arg2.toNat + s.latched.arg3.toNat ≤ 65536 ∧
          s.latched.arg4.toNat + n ≤ 65536 then
        if s.latched.arg1.toNat ≠ 0 then
          if s.latched.arg1.toNat % 16 = 0 ∧ 16 + ivLen mode ≤ s.latched.arg1.toNat then
            s.readKeyThenInput n
          else .error (.raise .encryptedDataInvalid)
        else .error (.raise .emptyBuffer)
      else .error (.raise .addressRange)
    else .error (.raise .keySizeRange) := by
  simp only [State.decStartOperands, checkKeyLen_bind, checkRange_bind, require_bind, ite_and,
    bne_iff_ne, Bool.and_eq_true, beq_iff_eq, decide_eq_true_eq]
  rfl

/-- AESDECC's checks in order, then its read (R463). -/
theorem decContOperands_eq (k : CtxIx) : s.decContOperands k =
    if (s.ctx k).active = true ∧ (s.ctx k).dir = .dec then
      if s.latched.arg0.toNat + s.latched.arg1.toNat ≤ 65536 ∧
          s.latched.arg2.toNat + s.latched.arg3.toNat ≤ 65536 then
        if s.latched.arg1.toNat ≠ 0 then
          if s.latched.arg1.toNat % 16 = 0 then s.read s.latched.arg0.toNat s.latched.arg1.toNat
          else .error (.raise .encryptedDataInvalid)
        else .error (.raise .emptyBuffer)
      else .error (.raise .addressRange)
    else .error (.raise .streamNotStarted) := by
  simp only [State.decContOperands, checkStream_bind, checkRange_bind, require_bind, ite_and,
    bne_iff_ne, beq_iff_eq]
  rfl

/-! ### What the stream commands complete with -/

/-- The end of a command that wrote `bytes` at `a`, a context and its two results (R47, R104, R502):
nothing but the bytes of the range, that context, the results and the completion changes. -/
theorem succeed_wrote_ctx (hwf : Memory.wf s.buf) (a : Nat) {bytes : List Byte} {n : Nat}
    (hn : bytes.length = n) (k : CtxIx) (c : Ctx) (r0 r1 : Word) :
    let t := (((s.write a bytes).setCtx k c).setRes r0 r1).succeed
    t = ({ s with buf := t.buf, ctxs := s.ctxs.set k c, res0 := r0, res1 := r1 } : State).ended 0 ∧
      ∀ x, memGet t.buf x = if a ≤ x ∧ x < a + n then bytes[x - a]? else memGet s.buf x :=
  ⟨rfl, hn ▸ memGet_memWrite bytes hwf.1 a⟩

/-- Unpadding and delivery, in the order of its errors (R453, R462, R463). -/
theorem deliver_eq (k : CtxIx) (c : Ctx) (q : List Byte) : s.deliver k c q =
    if 1 ≤ (q.getLastD 0).toNat ∧ (q.getLastD 0).toNat ≤ 16 then
      if q.length - (q.getLastD 0).toNat ≤ s.latched.arg3.toNat then
        .ok (((s.write s.latched.arg2.toNat (q.take (q.length - (q.getLastD 0).toNat))).setCtx k c).setRes
          (natRes (q.length - (q.getLastD 0).toNat)) (natRes (q.getLastD 0).toNat))
      else .error .bufferTooSmall
    else .error .encryptedDataInvalid := by
  unfold State.deliver padByte
  by_cases h : 1 ≤ (q.getLastD 0).toNat ∧ (q.getLastD 0).toNat ≤ 16
  · simp only [if_pos h]; rfl
  · simp only [if_neg h]

/-- The completion of a decryption that gave `q`, which installs the context `c` (R462, R463). -/
theorem complete_deliver {s : State} (hwf : Memory.wf s.buf) (k : CtxIx) (c : Ctx) (q : List Byte) :
    let n := (q.getLastD 0).toNat
    let t := s.complete (s.deliver k c q)
    (n < 1 ∨ 16 < n → t = s.ended 7) ∧
    (1 ≤ n → n ≤ 16 → s.latched.arg3.toNat < q.length - n → t = s.ended 5) ∧
    (1 ≤ n → n ≤ 16 → q.length - n ≤ s.latched.arg3.toNat →
      t = ({ s with
        buf := t.buf, ctxs := s.ctxs.set k c
        res0 := BitVec.ofNat 64 (q.length - n), res1 := BitVec.ofNat 64 n } : State).ended 0 ∧
      ∀ a, memGet t.buf a =
        if s.latched.arg2.toNat ≤ a ∧ a < s.latched.arg2.toNat + (q.length - n)
        then q[a - s.latched.arg2.toNat]? else memGet s.buf a) := by
  intro n t
  have ht : t = s.complete (s.deliver k c q) := rfl
  rw [deliver_eq] at ht
  refine ⟨fun hn => ?_, fun h1 h16 hsmall => ?_, fun h1 h16 hfits => ?_⟩
  · rw [ht, if_neg (by omega)]; rfl
  · rw [ht, if_pos ⟨h1, h16⟩, if_neg (not_le.mpr hsmall)]; rfl
  · rw [if_pos ⟨h1, h16⟩, if_pos hfits, complete_ok] at ht
    have hlen : (q.take (q.length - n)).length = q.length - n := by simp
    obtain ⟨hstate, hbytes⟩ := succeed_wrote_ctx s hwf s.latched.arg2.toNat hlen k c
      (natRes (q.length - n)) (natRes n)
    rw [← ht] at hstate hbytes
    refine ⟨hstate, fun a => (hbytes a).trans ?_⟩
    exact if_ctx_congr Iff.rfl (fun ha => List.getElem?_take_of_lt (by omega)) fun _ => rfl

/-- AESENCS completes from its key and input with a Start's encryption, its draw spent (R460). -/
theorem execAesencs_eq (k : CtxIx) (mode : Mode) (imm : BitVec 32) :
    exec (.aesencs k mode imm) s = s.finish (s.encStartOperands mode imm.toNat) fun (key, p) =>
      let t := s.spend (if mode = .ecb then 0 else 1)
      t.complete (t.encStart Config.source s.draws k mode key p) := rfl

/-- AESENCC completes from its chunk by writing the ciphertext and the feedback (R461). -/
theorem execAesencc_eq (k : CtxIx) : exec (.aesencc k) s = s.finish (s.encContOperands k) fun p =>
    let e := encryptChunk (s.ctx k).mode (s.ctx k).keyBytes (s.ctx k).fb p
    (((s.write s.latched.arg2.toNat e.1).setCtx k { s.ctx k with fb := e.2 }).setRes
      (natRes (pad16 p.length)) (natRes (padLen p.length))).succeed := rfl

/-- AESDECS completes from its key and input by delivering the decryption, with a new context (R462). -/
theorem execAesdecs_eq (k : CtxIx) (mode : Mode) (imm : BitVec 32) :
    exec (.aesdecs k mode imm) s = s.finish (s.decStartOperands mode imm.toNat) fun (key, x) =>
      let d := decryptChunk mode key (startFeedback mode x) (x.take (x.length - ivLen mode))
      s.complete (s.deliver k (startedCtx .dec mode key d.2) d.1) := rfl

/-- AESDECC completes from its chunk by delivering the decryption, with the new feedback (R463). -/
theorem execAesdecc_eq (k : CtxIx) : exec (.aesdecc k) s = s.finish (s.decContOperands k) fun x =>
    let d := decryptChunk (s.ctx k).mode (s.ctx k).keyBytes (s.ctx k).fb x
    s.complete (s.deliver k { s.ctx k with fb := d.2 } d.1) := rfl

/-! ### The Continues and the decrypt Start -/

/-- Settles O54: the checks in order; the read precedes the write, so the ranges may overlap. -/
theorem aesenccContinuesTheStream : Obligations.AesenccContinuesTheStream := by
  intro s k hwf c src L dst cap isOpen rangesOk out key
  rw [execAesencc_eq, encContOperands_eq, pad16_eq]
  refine ⟨fun hopen => ?_, fun hopen hranges => ?_, fun hopen hranges hzero => ?_,
    fun hopen hranges hne hsmall => ?_, fun p hopen hranges hne hfits hp holds => ?_⟩
  · rw [if_neg hopen]; rfl
  · rw [if_pos hopen, if_neg hranges]; rfl
  · rw [if_pos hopen, if_pos hranges, if_neg (not_not.mpr hzero)]; rfl
  · rw [if_pos hopen, if_pos hranges, if_pos hne, if_neg (not_le.mpr hsmall)]; rfl
  · rw [if_pos hopen, if_pos hranges, if_pos hne, if_pos hfits, (read_eq_ok s hp).mpr holds, finish_ok,
      pad16_eq, hp]
    exact ⟨_, rfl, succeed_wrote_ctx s hwf dst ((encryptChunk_length _ _ _ p).trans (by rw [hp])) k _ _ _⟩

/-- Settles O55: the checks in order, then the delivery of the decryption. -/
theorem aesdecsStartsADecryptedStream : Obligations.AesdecsStartsADecryptedStream := by
  intro s k mode imm hwf KL src L dst cap ka iv lenOk rangesOk inputOk
  have hiv : ivLen mode = iv := rfl
  rw [execAesdecs_eq, decStartOperands_eq, hiv]
  refine ⟨fun hlen => ?_, fun hlen hranges => ?_, fun hlen hranges hzero => ?_,
    fun hlen hranges hne hinput => ?_,
    fun key x hlen hranges hne hinput hkey hx holdsKey holdsX => ?_⟩
  · rw [if_neg hlen]; rfl
  · rw [if_pos hlen, if_neg hranges]; rfl
  · rw [if_pos hlen, if_pos hranges, if_neg (not_not.mpr hzero)]; rfl
  · rw [if_pos hlen, if_pos hranges, if_pos hne, if_neg hinput]; rfl
  · rw [if_pos hlen, if_pos hranges, if_pos hne, if_pos hinput,
      readKeyThenInput_of_holds hkey hx holdsKey holdsX, finish_ok]
    intro fb0 q n
    have hstart : startFeedback mode x = fb0 := by rw [startFeedback, hx]
    have hcipher : (x.take (L - iv)).length = L - iv := by simp [hx, L]
    have hq : q.length = L - iv := by
      have hwhole : iv = 0 ∨ iv = 16 := by simp only [iv]; split <;> simp
      rw [decryptChunk_length _ _ _ (by omega), hcipher]
    simp only [hstart, hx, startedCtx, hkey]
    obtain ⟨hbad, hsmall, hwrite⟩ := complete_deliver hwf k
      ⟨true, .dec, mode, KL, keyField key, (decryptChunk mode key fb0 (x.take (L - iv))).2⟩ q
    exact ⟨fun hn => congrArg _ (hbad hn), fun h1 h16 hc => congrArg _ (hsmall h1 h16 hc),
      fun h1 h16 hc => ⟨hq, _, rfl, hwrite h1 h16 hc⟩⟩

/-- Settles O56: the checks in order, then the delivery of the decryption. -/
theorem aesdeccContinuesTheStream : Obligations.AesdeccContinuesTheStream := by
  intro s k hwf c src L dst cap isOpen rangesOk key
  rw [execAesdecc_eq, decContOperands_eq]
  refine ⟨fun hopen => ?_, fun hopen hranges => ?_, fun hopen hranges hzero => ?_,
    fun hopen hranges hpartial => ?_, fun x hopen hranges hne hwhole hx holds => ?_⟩
  · rw [if_neg hopen]; rfl
  · rw [if_pos hopen, if_neg hranges]; rfl
  · rw [if_pos hopen, if_pos hranges, if_neg (not_not.mpr hzero)]; rfl
  · rw [if_pos hopen, if_pos hranges, if_pos (by omega), if_neg hpartial]; rfl
  · rw [if_pos hopen, if_pos hranges, if_pos hne, if_pos hwhole, (read_eq_ok s hx).mpr holds, finish_ok]
    intro q n
    have hq : q.length = L := (decryptChunk_length _ _ _ (by omega)).trans hx
    obtain ⟨hbad, hsmall, hwrite⟩ := complete_deliver hwf k
      { c with fb := (decryptChunk c.mode key c.fb x).2 } q
    exact ⟨fun hn => congrArg _ (hbad hn), fun h1 h16 hc => congrArg _ (hsmall h1 h16 hc),
      fun h1 h16 hc => ⟨hq, _, rfl, hwrite h1 h16 hc⟩⟩

/-! ### AESCLR -/

/-- Settles O59: the reset value is inactive, and the stream check is a Continue's first. -/
theorem clearedStreamsAreNotStarted : Obligations.ClearedStreamsAreNotStarted := by
  refine ⟨fun s k => rfl, fun s k hinactive => ?_, fun k => ?_, fun s t v k hv hwrite => ?_⟩
  · have hclosed (dir : Dir) : ¬ ((s.ctx k).active = true ∧ (s.ctx k).dir = dir) := by simp [hinactive]
    rw [execAesencc_eq, encContOperands_eq, if_neg (hclosed _), execAesdecc_eq, decContOperands_eq,
      if_neg (hclosed _)]
    exact ⟨rfl, rfl⟩
  · rw [State.reset_ctx]; rfl
  · rw [hostAccess_write_register s (by decide) (by decide)] at hwrite
    obtain rfl := Host.Outcome.next.inj hwrite
    have hreset : (s.writeRegister 0x010 v).ctxs = State.reset.ctxs :=
      (congrArg State.ctxs (writeCtrl_reset s hv)).trans s.softReset_ctxs
    rw [State.ctx_congr ((State.answer_ctxs _ _).trans hreset), State.reset_ctx]; rfl

/-! ### AESLEN -/

/-- AESLEN completes with its number and nothing else (R465). -/
theorem execAeslen_eq (mode : Mode) (dir : Dir) (first : Bool) :
    exec (.aeslen mode dir first) s = .next (({ s with
      res0 := natRes (aesLength mode dir first s.latched.arg0.toNat), res1 := 0 } : State).ended 0) := rfl

/-- The IV of the chunk that AESLEN is asked about (R457, R465). -/
theorem startIvLen_eq (mode : Mode) (first : Bool) :
    (if first then ivLen mode else 0) = if first = true ∧ mode ≠ .ecb then 16 else 0 := by
  cases first <;> simp [ivLen]

theorem aesLength_enc (mode : Mode) (first : Bool) (n : Nat) : aesLength mode .enc first n =
    16 * (n / 16 + 1) + if first = true ∧ mode ≠ .ecb then 16 else 0 := by
  rw [← pad16_eq, ← startIvLen_eq]; rfl

theorem aesLength_dec (mode : Mode) (first : Bool) (n : Nat) : aesLength mode .dec first n =
    n - if first = true ∧ mode ≠ .ecb then 16 else 0 := by
  rw [← startIvLen_eq]; rfl

/-- The answer for decryption is a length of 64 bits less the IV, so nothing of it is cut off. -/
theorem execAeslen_dec_res0 {s u : State} {mode : Mode} {first : Bool}
    (h : exec (.aeslen mode .dec first) s = .next u) :
    u.res0.toNat = s.latched.arg0.toNat - if first then ivLen mode else 0 := by
  rw [execAeslen_eq] at h
  obtain rfl := Host.Outcome.next.inj h
  exact Nat.mod_eq_of_lt ((Nat.sub_le _ _).trans_lt s.latched.arg0.isLt)

/-- A reading command that ends without an error has read its operands. -/
theorem finish_success {s t : State} {α : Type} {r : Except Stop α} {k : α → State}
    (h : s.finish r k = .next t) (ht : t.errcode = 0) : ∃ x, r = .ok x ∧ t = k x := by
  rcases finish_cases s r k with ⟨x, hx, hfin⟩ | ⟨e, -, hfin⟩ | ⟨f, -, hfin⟩ <;> rw [hfin] at h
  · exact ⟨x, hx, (Host.Outcome.next.inj h).symm⟩
  · obtain rfl := Host.Outcome.next.inj h
    exact absurd ht (errCode_ne_zero e)
  · cases h

/-- A computation that ends without an error has its own state installed. -/
theorem complete_success {s : State} {r : Except ErrCode State} (h : (s.complete r).errcode = 0) :
    ∃ t, r = .ok t ∧ s.complete r = t.succeed := by
  rcases complete_cases s r with hok | ⟨e, -, hfail⟩
  · exact hok
  · rw [hfail] at h
    exact absurd h (errCode_ne_zero e)

/-- RES0 of a Start's encryption: the padded chunk and the IV, drawn or not (R460). -/
theorem encStart_res0 {s u : State} {src : Source} {i : Nat} {k : CtxIx} {mode : Mode}
    {key p : List Byte} (h : s.encStart src i k mode key p = .ok u) :
    u.res0 = natRes (pad16 p.length + ivLen mode) := by
  unfold State.encStart at h
  split at h
  case isTrue hecb =>
    obtain rfl := Except.ok.inj h
    rw [hecb]; rfl
  case isFalse hecb =>
    split at h
    · cases h
    · obtain rfl := Except.ok.inj h
      have hiv : ivLen mode = 16 := if_neg hecb
      rw [hiv, State.startEnc, State.setRes_res0, bytesOf, toLE_length]

/-- RES0 of an AESENCS that ends without an error (R460). -/
theorem execAesencs_res0 {s t : State} {k : CtxIx} {mode : Mode} {imm : BitVec 32}
    (h : exec (.aesencs k mode imm) s = .next t) (ht : t.errcode = 0) :
    t.res0 = natRes (pad16 s.latched.arg1.toNat + ivLen mode) := by
  rw [execAesencs_eq, encStartOperands_eq] at h
  obtain ⟨⟨key, p⟩, hread, rfl⟩ := finish_success h ht
  obtain ⟨u, hu, hend⟩ := complete_success ht
  have hp : p.length = s.latched.arg1.toNat := by
    repeat' split at hread
    · exact readKeyThenInput_length hread
    all_goals cases hread
  exact (congrArg State.res0 hend).trans ((encStart_res0 hu).trans (by rw [hp]))

/-- RES0 of an AESENCC that ends without an error (R461). -/
theorem execAesencc_res0 {s t : State} {k : CtxIx} (h : exec (.aesencc k) s = .next t)
    (ht : t.errcode = 0) : t.res0 = natRes (pad16 s.latched.arg1.toNat) := by
  rw [execAesencc_eq, encContOperands_eq] at h
  obtain ⟨p, hread, rfl⟩ := finish_success h ht
  have hp : p.length = s.latched.arg1.toNat := by
    repeat' split at hread
    · exact read_length s hread
    all_goals cases hread
  exact congrArg (fun n => natRes (pad16 n)) hp

/-- BufferTooSmall alone has the number 5 (R501). -/
theorem code_eq_five_iff {e : ErrCode} : e.code = 5 ↔ e = .bufferTooSmall := by
  cases e <;> decide

/-- A delivery with room for the padded bytes does not end in BufferTooSmall (R453). -/
theorem deliver_not_tooSmall {s : State} (k : CtxIx) (c : Ctx) {q : List Byte}
    (hroom : q.length ≤ s.latched.arg3.toNat) : (s.complete (s.deliver k c q)).errcode ≠ 5 := by
  rw [deliver_eq]
  split
  · rw [if_pos ((Nat.sub_le _ _).trans hroom), complete_ok, State.succeed_errcode]; decide
  · rw [complete_error, State.fail_errcode]; decide

/-- A reading command ends in BufferTooSmall only if its checks raise it or its computation does. -/
theorem finish_not_tooSmall {s t : State} {α : Type} {r : Except Stop α} {k : α → State}
    (h : s.finish r k = .next t) (hchecks : r ≠ .error (.raise .bufferTooSmall))
    (hrest : ∀ x, r = .ok x → (k x).errcode ≠ 5) : t.errcode ≠ 5 := by
  rcases finish_cases s r k with ⟨x, hx, hfin⟩ | ⟨e, he, hfin⟩ | ⟨f, -, hfin⟩ <;> rw [hfin] at h
  · exact Host.Outcome.next.inj h ▸ hrest x hx
  · obtain rfl := Host.Outcome.next.inj h
    exact fun hcode => hchecks (by rw [he, code_eq_five_iff.mp hcode])
  · cases h

/-- AESDECS with room for its input less the IV does not end in BufferTooSmall (R462, R465). -/
theorem execAesdecs_not_tooSmall {s t : State} {k : CtxIx} {mode : Mode} {imm : BitVec 32}
    (h : exec (.aesdecs k mode imm) s = .next t)
    (hroom : s.latched.arg1.toNat - ivLen mode ≤ s.latched.arg3.toNat) : t.errcode ≠ 5 := by
  rw [execAesdecs_eq, decStartOperands_eq] at h
  refine finish_not_tooSmall h ?_ ?_
  · repeat' split
    · exact readKeyThenInput_not_raise
    all_goals simp
  · rintro ⟨key, x⟩ hread
    repeat' split at hread
    case isTrue hwhole =>
      have hx := readKeyThenInput_length hread
      have hiv : ivLen mode = 0 ∨ ivLen mode = 16 := by unfold ivLen; split <;> simp
      refine deliver_not_tooSmall k _ ?_
      rw [decryptChunk_length _ _ _ (by rw [List.length_take]; omega), List.length_take]
      omega
    all_goals cases hread

/-- AESDECC with room for its input does not end in BufferTooSmall (R463, R465). -/
theorem execAesdecc_not_tooSmall {s t : State} {k : CtxIx} (h : exec (.aesdecc k) s = .next t)
    (hroom : s.latched.arg1.toNat ≤ s.latched.arg3.toNat) : t.errcode ≠ 5 := by
  rw [execAesdecc_eq, decContOperands_eq] at h
  refine finish_not_tooSmall h ?_ ?_
  · repeat' split
    · intro hread
      obtain ⟨x, -, -, -, hfault⟩ := read_error s hread
      cases hfault
    all_goals simp
  · intro x hread
    repeat' split at hread
    case isTrue hwhole =>
      have hx := read_length s hread
      refine deliver_not_tooSmall k _ ?_
      rw [decryptChunk_length _ _ _ (by omega)]
      omega
    all_goals cases hread

/-- Settles O60: AESLEN's number, against RES0 of the encryptions and the capacity of the decryptions. -/
theorem aeslenSizesTheOutput : Obligations.AeslenSizesTheOutput := by
  refine ⟨fun s mode first => ?_, fun s t u v k mode imm first harg hexec ht hlen => ?_,
    fun s t u v k mode imm first harg hlen hroom hexec => ?_⟩
  · intro L iv
    rw [execAeslen_eq, execAeslen_eq, aesLength_enc, aesLength_dec]
    exact ⟨rfl, rfl⟩
  · obtain rfl := Host.Outcome.next.inj hlen
    have hnum : natRes (aesLength mode .enc first v.latched.arg0.toNat) =
        natRes (pad16 s.latched.arg1.toNat + if first then ivLen mode else 0) := by rw [harg]; rfl
    refine hnum.trans ?_
    cases first with
    | true => exact (execAesencs_res0 hexec ht).symm
    | false => exact (execAesencc_res0 hexec ht).symm
  · rw [execAeslen_dec_res0 hlen, harg] at hroom
    cases first with
    | true => exact execAesdecs_not_tooSmall hexec hroom
    | false => exact execAesdecc_not_tooSmall hexec hroom

end Sys2Proof.Machine
end

section
/-! PROOFS. Exceptions (60_exceptions.md): which words raise IllegalCommand, by the rows of the opcode
table and the checks of the decode function, and what a completion with an error leaves unchanged. -/

namespace Sys2Proof

/-! ### The rows of the opcode table as match and mask -/

/-- Field by field, the bits of `f` that `mask` selects. -/
def Fields.masked (f mask : Fields) : Fields where
  opc := f.opc &&& mask.opc
  rd := f.rd &&& mask.rd
  rs1 := f.rs1 &&& mask.rs1
  rs2 := f.rs2 &&& mask.rs2
  rs3 := f.rs3 &&& mask.rs3
  rd2 := f.rd2 &&& mask.rd2
  fl := f.fl &&& mask.fl
  imm := f.imm &&& mask.imm

/-- The formats whose RD field is a context index (R156). -/
def Format.namesCtx : Format → Bool
  | .as | .ac | .ax => true
  | _ => false

/-- The bits of a 4-bit field that a row fixes at 0: all, unless the format uses the field (R155). -/
def unusedMask (used : Bool) : BitVec 4 := if used then 0 else 15

/-- The bits that a row of the opcode table fixes: OPC, every unused field and reserved bit (R153 to R156),
and the top bit of a context field, which is 0 below N_CTX (R152). -/
def Op.mask (op : Op) : Fields :=
  let (rd, rs1, rs2, rs3, rd2) := op.format.uses
  { opc := 0xFF
    rd := if op.format.namesCtx then 8 else unusedMask rd
    rs1 := unusedMask rs1
    rs2 := unusedMask rs2
    rs3 := unusedMask rs3
    rd2 := unusedMask rd2
    fl := op.flReserved
    imm := op.immReserved }

/-- The match and mask columns of a row. -/
def Op.row (op : Op) : Word × Word := (op.bare.toWord, op.mask.toWord)

/-- `f` fits the row of `op`: conditions 1 to 3 of R510 fail for that row. -/
def Fields.Fits (f : Fields) (op : Op) : Prop :=
  f.opc = op.code ∧ f.unusedZero op = true ∧ (op.format.namesCtx = true → f.rd.toNat < Config.nCtx)

theorem ofWord_and (v w : Word) : Fields.ofWord (v &&& w) = (Fields.ofWord v).masked (Fields.ofWord w) := by
  simp only [Fields.ofWord, Fields.masked, BitVec.extractLsb'_and]

theorem ofWord_inj {v w : Word} : Fields.ofWord v = Fields.ofWord w ↔ v = w :=
  ⟨fun h => by rw [← toWord_ofWord v, h, toWord_ofWord], congrArg _⟩

theorem and_unusedMask (x : BitVec 4) (used : Bool) :
    x &&& unusedMask used = 0 ↔ (used || x == 0) = true := by
  revert x used; decide

theorem and_eight_eq_zero_iff (x : BitVec 4) : x &&& 8 = 0 ↔ x.toNat < Config.nCtx := by
  revert x; decide

/-- A context field stands in RD, which its format uses (R156). -/
theorem Format.uses_rd_of_namesCtx {m : Format} (h : m.namesCtx = true) : m.uses.1 = true := by
  revert h; cases m <;> decide

/-- The RD field under a row's mask (R152, R155). -/
theorem and_rdMask (x : BitVec 4) (m : Format) :
    x &&& (if m.namesCtx then 8 else unusedMask m.uses.1) = 0 ↔
      (m.uses.1 || x == 0) = true ∧ (m.namesCtx = true → x.toNat < Config.nCtx) := by
  cases h : m.namesCtx with
  | false => simpa using and_unusedMask x m.uses.1
  | true => simpa [Format.uses_rd_of_namesCtx h] using and_eight_eq_zero_iff x

/-- Agreeing with a row under its mask is fitting the row, field by field. -/
theorem masked_eq_bare_iff (f : Fields) (op : Op) : f.masked op.mask = op.bare ↔ f.Fits op := by
  have hopc : f.opc &&& 0xFF = f.opc := BitVec.and_allOnes
  simp only [Fields.masked, Op.mask, Op.bare, Fields.mk.injEq, Fields.Fits, Fields.unusedZero, hopc,
    and_rdMask, and_unusedMask, Bool.and_eq_true, beq_iff_eq (α := BitVec _)]
  tauto

/-- A word agrees with a row of the table exactly if its fields fit the row. -/
theorem and_row_iff (w : Word) (op : Op) :
    w &&& op.row.2 = op.row.1 ↔ (Fields.ofWord w).Fits op := by
  rw [← masked_eq_bare_iff, ← ofWord_inj, ofWord_and, Op.row, ofWord_toWord, ofWord_toWord]

theorem mem_all (op : Op) : op ∈ Op.all := by cases op <;> decide

/-! ### Which words decode -/

/-- Condition 4 of R510: a command with a mode holds a reserved mode code (R451). -/
def Fields.ReservedMode (f : Fields) : Prop :=
  (f.opc = 0x41 ∨ f.opc = 0x43 ∨ f.opc = 0x46) ∧ 5 ≤ (f.fl.extractLsb' 0 3).toNat

/-- The mode code FL[2:0] in the word (R151, R450). -/
theorem extractLsb'_mode (w : Word) :
    w.extractLsb' 28 3 = (Fields.ofWord w).fl.extractLsb' 0 3 := by
  ext i hi
  have hi4 : i < 4 := by omega
  simp [Fields.ofWord, hi4]

/-- Conditions 5 and 6 of R510: BDIVREM or BEXTGCD with equal destinations (R159). -/
def Fields.SameDestination (f : Fields) : Prop :=
  (f.opc = 0x07 ∧ f.rd = f.rd2) ∨
    (f.opc = 0x23 ∧ (f.rd = f.rd2 ∨ f.rd = f.rs3 ∨ f.rd2 = f.rs3))

theorem ctxOf_isOk_iff (x : BitVec 4) : (ctxOf x).isOk = true ↔ x.toNat < Config.nCtx := by
  revert x; decide

theorem modeOf_isOk_iff (fl : BitVec 4) :
    (modeOf fl).isOk = true ↔ (fl.extractLsb' 0 3).toNat < 5 := by
  revert fl; decide

@[simp] theorem isOk_ok {ε α : Type} (x : α) : (Except.ok x : Except ε α).isOk = true := rfl

@[simp] theorem isOk_error {ε α : Type} (e : ε) : (Except.error e : Except ε α).isOk = false := rfl

/-- A row with one checked field decodes where that field is in range. -/
theorem isOk_bind_ok {ε α β : Type} (m : Except ε α) (g : α → β) :
    (m >>= fun x => Except.ok (g x)).isOk = m.isOk := by
  cases m <;> rfl

/-- A row with two checked fields decodes where both are in range. -/
theorem isOk_bind_bind_ok {ε α β γ : Type} (m : Except ε α) (n : Except ε β) (g : α → β → γ) :
    (m >>= fun x => n >>= fun y => Except.ok (g x y)).isOk = (m.isOk && n.isOk) := by
  cases m <;> cases n <;> rfl

theorem isOk_ite_error {ε α : Type} (p : Prop) [Decidable p] (e : ε) (x : α) :
    (if p then Except.error e else Except.ok x).isOk = true ↔ ¬ p := by
  split <;> simp_all

theorem isOk_iff_exists {ε α : Type} {m : Except ε α} : m.isOk = true ↔ ∃ x, m = .ok x := by
  cases m <;> simp

/-- What is left to check once a word has a row and its unused bits are 0 (R159): the context index, the mode
code and the destinations. -/
theorem assemble_isOk_iff {f : Fields} {op : Op} (h : f.opc = op.code) :
    (op.assemble f).isOk = true ↔
      (op.format.namesCtx = true → f.rd.toNat < Config.nCtx) ∧
        ¬ f.ReservedMode ∧ ¬ f.SameDestination := by
  simp only [Fields.ReservedMode, Fields.SameDestination, h]
  cases op with
  | bdivrem | bextgcd => simp [Op.assemble, isOk_ite_error, Op.code, Op.format, Format.namesCtx]
  | aesencs | aesdecs =>
    simp [Op.assemble, isOk_bind_bind_ok, ctxOf_isOk_iff, modeOf_isOk_iff, Op.code, Op.format,
      Format.namesCtx]
  | aesencc | aesdecc | aesclr =>
    simp [Op.assemble, isOk_bind_ok, ctxOf_isOk_iff, Op.code, Op.format, Format.namesCtx]
  | aeslen =>
    simp [Op.assemble, isOk_bind_ok, modeOf_isOk_iff, Op.code, Op.format, Format.namesCtx]
  | _ => simp [Op.assemble, Op.code, Op.format, Format.namesCtx]

/-- The OPC of a word names the only row it can fit (R157). -/
theorem Fields.Fits.ofCode {f : Fields} {op : Op} (h : f.Fits op) : Op.ofCode f.opc = some op := by
  rw [h.1, ofCode_code]

/-- A word decodes exactly if it fits a row, its mode is not reserved and its destinations differ (R159,
R510). -/
theorem decode_isOk_iff (f : Fields) :
    f.decode.isOk = true ↔ (∃ op, f.Fits op) ∧ ¬ f.ReservedMode ∧ ¬ f.SameDestination := by
  cases hop : Op.ofCode f.opc with
  | none =>
    have noRow : ¬ ∃ op, f.Fits op := fun ⟨op, hfits⟩ => by simp [hfits.ofCode] at hop
    simp [Fields.decode, hop, noRow]
  | some op =>
    have hopc : f.opc = op.code := (code_of_ofCode hop).symm
    have row : (∃ op', f.Fits op') ↔ f.Fits op :=
      ⟨fun ⟨op', hfits⟩ => Option.some.inj (hfits.ofCode.symm.trans hop) ▸ hfits,
        fun h => ⟨op, h⟩⟩
    rw [row]
    by_cases hunused : f.unusedZero op = true
    · have fits : f.Fits op ↔ (op.format.namesCtx = true → f.rd.toNat < Config.nCtx) := by
        simp only [Fields.Fits, hopc, hunused, true_and]
      simp only [Fields.decode, hop, if_pos hunused, assemble_isOk_iff hopc, fits]
    · simp [Fields.decode, Fields.Fits, hop, hunused]

end Sys2Proof

namespace Sys2Proof.Machine

/-! ### IllegalCommand -/

/-- A running word that does not decode completes with IllegalCommand and no other effect (R510). -/
theorem completion_undecodable {s : State} {w : Word} {a : Args} (hbusy : s.seq = .busy w a)
    (h : ¬ (decode w).isOk = true) : s.completion = .next (s.fail .illegalCommand) := by
  unfold State.completion
  rw [hbusy]
  cases hd : decode w with
  | ok i => exact absurd (by rw [hd, isOk_ok]) h
  | error e => simp [hd]

/-- Settles O10: the listed rows are those of the opcode map, so a word is illegal exactly if it does not
decode. -/
theorem illegalCommandExactlyOnTheSixConditions :
    Obligations.IllegalCommandExactlyOnTheSixConditions := by
  unfold Obligations.IllegalCommandExactlyOnTheSixConditions
  intro rows illegal s w a hbusy
  have hrows : rows = Op.all.map Op.row := rfl
  have noRow : (∀ r ∈ rows, w &&& r.2 ≠ r.1) ↔ ¬ ∃ op, (Fields.ofWord w).Fits op := by
    simp [hrows, mem_all, and_row_iff]
  have hillegal : illegal w ↔ ¬ (decode w).isOk = true := by
    calc illegal w
      _ ↔ (¬ ∃ op, (Fields.ofWord w).Fits op) ∨ (Fields.ofWord w).ReservedMode ∨
          (Fields.ofWord w).SameDestination := by
        rw [← noRow, Fields.ReservedMode, ← extractLsb'_mode]; rfl
      _ ↔ ¬ (decode w).isOk = true := by simp only [decode, decode_isOk_iff, not_and_or, not_not]
  refine ⟨fun h => completion_undecodable hbusy (hillegal.mp h), fun h => ?_⟩
  exact isOk_iff_exists.mp (not_not.mp (mt hillegal.mpr h))

/-! ### Completion with an error -/

/-- A completion whose code is not 0 is the old state with the error, its draws spent (R503, log 2). -/
theorem State.CompletesTo.eq_ended {s t : State} (h : s.CompletesTo t) (hcode : t.errcode ≠ 0) :
    t = ({ s with draws := t.draws } : State).ended t.errcode := by
  cases h with
  | success h => exact absurd (State.succeed_errcode _) hcode
  | error n e => rfl

/-- Settles O22, from the two ends a completion can have. -/
theorem errorsChangeNothingElse : Obligations.ErrorsChangeNothingElse :=
  fun i s t h hcode => (exec_completesAs s i t h).eq_ended hcode

end Sys2Proof.Machine
end

section
/-! PROOFS. The reset table (R551): what the derived rows (CTRL, STATUS and `irq`) read after a hardware
reset, and that the soft reset agrees with it on every row but BUF. -/

namespace Sys2Proof.Machine

/-! ### After a hardware reset -/

/-- No byte of BUF is written at power-on (R555). -/
theorem reset_buf_unwritten (a : Nat) : memGet State.reset.buf a = none := rfl

@[simp] theorem reset_ctrlWord : State.reset.ctrlWord = 0 := rfl

@[simp] theorem reset_statusWord : State.reset.statusWord = 0 := rfl

@[simp] theorem reset_irq : State.reset.irq = false := rfl

/-! ### After a soft reset -/

variable (s : State)

@[simp] theorem softReset_reg (i : Reg) : s.softReset.reg i = 0 := by
  rw [State.reg_congr s.softReset_regs, State.reset_reg]

@[simp] theorem softReset_ctx (k : CtxIx) : s.softReset.ctx k = Ctx.reset := by
  rw [State.ctx_congr s.softReset_ctxs, State.reset_ctx]

@[simp] theorem softReset_ctrlWord : s.softReset.ctrlWord = 0 := reset_ctrlWord

@[simp] theorem softReset_statusWord : s.softReset.statusWord = 0 := reset_statusWord

@[simp] theorem softReset_irq : s.softReset.irq = false := reset_irq

/-- A CTRL write with bit 1 set is the soft reset, acknowledged (R552). -/
theorem hostAccess_write_ctrl_reset {v : Word} (h : v.getLsbD 1 = true) :
    s.hostAccess (.write 0x010 8 v) = .next (s.softReset.answer .ack) := by
  rw [← writeCtrl_reset s h]
  exact hostAccess_write_register s (by decide) (by decide) v

/-- Settles O1, row by row: the answer to the CTRL write touches no row of the table. -/
theorem resetLeavesTheTableValues : Obligations.ResetLeavesTheTableValues := by
  refine ⟨⟨State.reset_reg, State.reset_ctx, reset_buf_unwritten, rfl, reset_ctrlWord, reset_statusWord,
    rfl, rfl, rfl, rfl, reset_irq, rfl, rfl⟩, fun s v hbit => ?_⟩
  exact ⟨s.softReset.answer .ack, hostAccess_write_ctrl_reset s hbit, softReset_reg s, softReset_ctx s,
    s.softReset_buf, s.softReset_seq, softReset_ctrlWord s, softReset_statusWord s, s.softReset_cmdLast,
    s.softReset_args, s.softReset_res0, s.softReset_res1, softReset_irq s⟩

end Sys2Proof.Machine
end

section
/-! PROOFS. What a command may reach: the registers, the context and the bytes it may change, whether it
draws and whether it reads the buffer, and one lemma that says every way a command can end within that. The
statements about all commands (frames, completions, faults, legal states) are read off that lemma. -/

namespace Sys2Proof.Machine

/-! ### Footprints -/

/-- What a command may reach: its destination registers and its context, the range of the buffer it may
write, whether it draws and whether it reads the buffer. What is not given is nothing. -/
structure Footprint where
  regs : List Reg := []
  ctxs : List CtxIx := []
  start : Nat := 0
  size : Nat := 0
  draws : Bool := false
  reads : Bool := false

/-- A command that only writes results or a register. -/
def Footprint.toRegs (regs : List Reg) : Footprint := { regs := regs }

/-- A command that loads a register from the buffer. -/
def Footprint.load (rd : Reg) : Footprint := { regs := [rd], reads := true }

/-- A command that writes the range of ARG0 and ARG1. -/
def Footprint.store (a : Args) : Footprint := { start := a.arg0.toNat, size := a.arg1.toNat }

/-- A stream command, which writes the range of ARG2 and ARG3. -/
def Footprint.stream (k : CtxIx) (a : Args) : Footprint :=
  { ctxs := [k], start := a.arg2.toNat, size := a.arg3.toNat, reads := true }

/-- The footprint of each command with the arguments `a` (R33, R106). -/
def footprint (a : Args) : Instr → Footprint
  | .nop | .bcmp _ _ | .bbitlen _ | .qrtest _ _ | .aeslen _ _ _ => .toRegs []
  | .bseti rd _ | .bmov rd _ | .bneg rd _ | .badd rd _ _ | .bsub rd _ _ | .bmul rd _ _ => .toRegs [rd]
  | .bmod rd _ _ | .bshl rd _ _ | .bshr rd _ _ | .bmodmul rd _ _ _ | .bmodexp rd _ _ _ => .toRegs [rd]
  | .bgcd rd _ _ | .bmodinv rd _ _ | .sqrtmod rd _ _ => .toRegs [rd]
  | .bdivrem rd rd2 _ _ => .toRegs [rd, rd2]
  | .bextgcd rd rd2 rd3 _ _ => .toRegs [rd, rd2, rd3]
  | .bload rd _ _ | .bfromdec rd => .load rd
  | .bstore _ _ | .btodec _ => .store a
  | .randbits rd _ _ | .randrange rd _ _ | .primegen rd _ _ => { Footprint.toRegs [rd] with draws := true }
  | .randbytes _ => { Footprint.store a with draws := true }
  | .mrtest _ _ _ => { draws := true }
  | .aesblk _ _ => { start := a.arg2.toNat, size := 16, reads := true }
  | .aesencs k _ _ => { Footprint.stream k a with draws := true }
  | .aesencc k | .aesdecs k _ _ | .aesdecc k => .stream k a
  | .aesclr k => { ctxs := [k] }

/-! ### A computed state within a footprint -/

/-- `u` differs from `s` only within `f`; what is new there is legal: a register in range, a context legal
if it was before, the buffer in canonical form. -/
structure State.Within (s : State) (f : Footprint) (u : State) : Prop where
  regs : ∀ j, u.reg j = s.reg j ∨ j ∈ f.regs ∧ (u.reg j).natAbs < Config.cap
  ctxs : ∀ k, u.ctx k = s.ctx k ∨ k ∈ f.ctxs ∧ ((s.ctx k).Legal → (u.ctx k).Legal)
  wf : Memory.wf s.buf → Memory.wf u.buf
  bytes : Memory.wf s.buf →
    ∀ x, memGet u.buf x = memGet s.buf x ∨ f.start ≤ x ∧ x < f.start + f.size
  draws : u.draws = s.draws ∨ f.draws = true

namespace State.Within

variable {s u : State} {f : Footprint}

theorem refl (s : State) (f : Footprint) : s.Within f s :=
  ⟨fun _ => .inl rfl, fun _ => .inl rfl, id, fun _ _ => .inl rfl, .inl rfl⟩

theorem setReg (h : s.Within f u) {i : Reg} (hi : i ∈ f.regs) {v : Int} (hv : v.natAbs < Config.cap) :
    s.Within f (u.setReg i v) :=
  { h with
    regs := fun j => by
      rw [State.reg_setReg]
      split
      case isTrue hj => exact .inr ⟨hj ▸ hi, hv⟩
      case isFalse => exact h.regs j }

theorem setCtx (h : s.Within f u) {k : CtxIx} (hk : k ∈ f.ctxs) {c : Ctx}
    (hc : (s.ctx k).Legal → c.Legal) : s.Within f (u.setCtx k c) :=
  { h with
    ctxs := fun j => by
      rw [State.ctx_setCtx]
      split
      case isTrue hj => exact .inr (hj ▸ ⟨hk, hc⟩)
      case isFalse => exact h.ctxs j }

theorem setRes (h : s.Within f u) (r0 r1 : Word) : s.Within f (u.setRes r0 r1) := { h with }

/-- A write from the start of the range that does not leave it, the range being valid (R103, R106). -/
theorem write (h : s.Within f u) {a : Nat} (ha : a = f.start) (hvalid : f.start + f.size ≤ 65536)
    {bytes : List Byte} (hsize : bytes.length ≤ f.size) : s.Within f (u.write a bytes) :=
  { h with
    wf := fun hwf => memWrite_wf bytes (h.wf hwf) (by change a + bytes.length ≤ 65536; omega)
    bytes := fun hwf x => by
      rw [State.write_buf, memGet_memWrite bytes (h.wf hwf).1]
      split
      case isTrue hx => exact .inr (by omega)
      case isFalse => exact h.bytes hwf x }

/-- Draws spent by a command that draws. -/
theorem spend (h : s.Within f u) {n : Nat} (hn : n = 0 ∨ f.draws = true) : s.Within f (u.spend n) :=
  { h with
    draws := hn.elim (fun hzero => by rw [hzero]; exact h.draws) .inr }

end State.Within

/-! ### Computations and reads within a footprint -/

/-- A computation from `s` gives a state within `f`, or an error that is not IllegalCommand. -/
inductive State.Computes (s : State) (f : Footprint) : Except ErrCode State → Prop where
  | ok {u : State} (h : s.Within f u) : s.Computes f (.ok u)
  | error {e : ErrCode} (he : e ≠ .illegalCommand) : s.Computes f (.error e)

namespace State.Computes

variable {s u : State} {f : Footprint}

/-- A check, or a computation of a value, before the rest. -/
theorem after {α : Type} {m : Except ErrCode α} {k : α → Except ErrCode State}
    (hm : m ≠ .error .illegalCommand) (hk : ∀ x, m = .ok x → s.Computes f (k x)) :
    s.Computes f (m >>= k) := by
  cases m with
  | error e => exact .error fun he => hm (congrArg _ he)
  | ok x => exact hk x rfl

/-- A change of the state before the rest. -/
theorem andThen {m : Except ErrCode State} {k : State → Except ErrCode State}
    (hm : s.Computes f m) (hk : ∀ t, s.Within f t → s.Computes f (k t)) : s.Computes f (m >>= k) := by
  cases hm with
  | error he => exact .error he
  | ok ht => exact hk _ ht

theorem writeReg (h : s.Within f u) {i : Reg} (hi : i ∈ f.regs) (v : Int) :
    s.Computes f (u.writeReg i v) := by
  rcases writeReg_cases u i v with ⟨hv, e⟩ | ⟨-, e⟩ <;> rw [e]
  · exact .ok (h.setReg hi hv)
  · exact .error nofun

theorem putReg (h : s.Within f u) {i : Reg} (hi : i ∈ f.regs) (v : Int) : s.Computes f (u.putReg i v) :=
  (writeReg h hi v).andThen fun _ ht => .ok (ht.setRes 0 0)

end State.Computes

/-- What a command does before it completes: a check raises no IllegalCommand, and a read that fails is the
core's fault at an unwritten byte of the buffer, of a command that reads. -/
inductive State.Reads {α : Type} (s : State) (f : Footprint) : Except Stop α → Prop where
  | ok (x : α) : s.Reads f (.ok x)
  | raise {e : ErrCode} (he : e ≠ .illegalCommand) : s.Reads f (.error (.raise e))
  | fault {x : Nat} (hreads : f.reads = true) (hx : x < 65536) (hbyte : memGet s.buf x = none) :
    s.Reads f (.error (.fault (.unwrittenRead .core x)))

namespace State.Reads

variable {s : State} {f : Footprint}

theorem bind {α β : Type} {m : Except Stop α} {k : α → Except Stop β} (hm : s.Reads f m)
    (hk : ∀ x, m = .ok x → s.Reads f (k x)) : s.Reads f (m >>= k) := by
  cases hm with
  | ok x => exact hk x rfl
  | raise he => exact .raise he
  | fault hreads hx hbyte => exact .fault hreads hx hbyte

theorem require (c : Bool) {e : ErrCode} (he : e ≠ .illegalCommand) : s.Reads f (require c e) := by
  cases c with
  | true => exact .ok ()
  | false => exact .raise he

theorem checkRange (a n : Nat) : s.Reads f (checkRange a n) := .require _ nofun

/-- A read of a valid range faults only at a byte of it, so inside the buffer (R555). -/
theorem read {a n : Nat} (hf : f.reads = true) (hrange : a + n ≤ 65536) : s.Reads f (s.read a n) := by
  cases hr : s.read a n with
  | ok bytes => exact .ok bytes
  | error e =>
    obtain ⟨x, -, hx, hbyte, rfl⟩ := read_error s hr
    exact .fault hf (by omega) hbyte

/-- BLOAD's and BFROMDEC's input (R230, R232). -/
theorem input (hf : f.reads = true) : s.Reads f s.input :=
  bind (checkRange _ _) fun _ hrange => bind (require _ nofun) fun _ _ =>
    read hf (checkRange_eq_ok.mp hrange)

/-- BSTORE's and BTODEC's checks (R231, R233). -/
theorem storeChecks (needed : Nat) : s.Reads f (s.storeChecks needed) :=
  bind (checkRange _ _) fun _ _ => require _ nofun

/-- AESBLK's operands (R420). -/
theorem blockOperands (hf : f.reads = true) (n : Nat) : s.Reads f (s.blockOperands n) :=
  bind (require _ nofun) fun _ _ => bind (checkRange _ _) fun _ hkey =>
    bind (checkRange _ _) fun _ hsrc => bind (checkRange _ _) fun _ _ =>
      bind (read hf (checkRange_eq_ok.mp hkey)) fun _ _ =>
        bind (read hf (checkRange_eq_ok.mp hsrc)) fun _ _ => .ok _

/-- AESENCS's operands (R460). -/
theorem encStartOperands (hf : f.reads = true) (mode : Mode) (n : Nat) :
    s.Reads f (s.encStartOperands mode n) :=
  bind (require _ nofun) fun _ _ => bind (checkRange _ _) fun _ hsrc =>
    bind (checkRange _ _) fun _ _ => bind (checkRange _ _) fun _ hkey =>
      bind (require _ nofun) fun _ _ => bind (require _ nofun) fun _ _ =>
        bind (read hf (checkRange_eq_ok.mp hkey)) fun _ _ =>
          bind (read hf (checkRange_eq_ok.mp hsrc)) fun _ _ => .ok _

/-- AESENCC's operands (R461). -/
theorem encContOperands (hf : f.reads = true) (k : CtxIx) : s.Reads f (s.encContOperands k) :=
  bind (require _ nofun) fun _ _ => bind (checkRange _ _) fun _ hsrc =>
    bind (checkRange _ _) fun _ _ => bind (require _ nofun) fun _ _ =>
      bind (require _ nofun) fun _ _ => read hf (checkRange_eq_ok.mp hsrc)

/-- AESDECS's operands (R462). -/
theorem decStartOperands (hf : f.reads = true) (mode : Mode) (n : Nat) :
    s.Reads f (s.decStartOperands mode n) :=
  bind (require _ nofun) fun _ _ => bind (checkRange _ _) fun _ hsrc =>
    bind (checkRange _ _) fun _ _ => bind (checkRange _ _) fun _ hkey =>
      bind (require _ nofun) fun _ _ => bind (require _ nofun) fun _ _ =>
        bind (read hf (checkRange_eq_ok.mp hkey)) fun _ _ =>
          bind (read hf (checkRange_eq_ok.mp hsrc)) fun _ _ => .ok _

/-- AESDECC's operands (R463). -/
theorem decContOperands (hf : f.reads = true) (k : CtxIx) : s.Reads f (s.decContOperands k) :=
  bind (require _ nofun) fun _ _ => bind (checkRange _ _) fun _ hsrc =>
    bind (checkRange _ _) fun _ _ => bind (require _ nofun) fun _ _ =>
      bind (require _ nofun) fun _ _ => read hf (checkRange_eq_ok.mp hsrc)

end State.Reads

/-! ### Every way a command can end -/

/-- The outcomes of a command with footprint `f` run from `s` (R502, R503, R555): success with a state within
`f`, an error other than IllegalCommand with its draws spent, or the core's fault at an unwritten byte. -/
inductive State.Runs (s : State) (f : Footprint) : Host.Outcome State Fault Refusal → Prop where
  | success {u : State} (h : s.Within f u) : s.Runs f (.next u.succeed)
  | error {n : Nat} {e : ErrCode} (hn : n = 0 ∨ f.draws = true) (he : e ≠ .illegalCommand) :
    s.Runs f (.next ((s.spend n).fail e))
  | fault {x : Nat} (hreads : f.reads = true) (hx : x < 65536) (hbyte : memGet s.buf x = none) :
    s.Runs f (.fault (.unwrittenRead .core x))

namespace State.Runs

variable {s : State} {f : Footprint}

/-- A computation that makes `n` draws, completed. -/
theorem spend_complete {n : Nat} (hn : n = 0 ∨ f.draws = true) {r : Except ErrCode State}
    (h : s.Computes f r) : s.Runs f (.next ((s.spend n).complete r)) := by
  cases h with
  | ok hu => exact .success hu
  | error he => exact .error hn he

/-- A computation without draws, completed. -/
theorem complete {r : Except ErrCode State} (h : s.Computes f r) : s.Runs f (.next (s.complete r)) :=
  spend_complete (.inl rfl) h

/-- A command that writes one register. -/
theorem putReg {rd : Reg} (hrd : rd ∈ f.regs) (v : Int) :
    s.Runs f (.next (s.complete (s.putReg rd v))) :=
  complete (.putReg (.refl s f) hrd v)

/-- A command that checks its operands, then writes one register. -/
theorem checked_putReg {c : Except ErrCode Unit} (hc : c ≠ .error .illegalCommand) {rd : Reg}
    (hrd : rd ∈ f.regs) (v : Int) : s.Runs f (.next (s.complete (c >>= fun _ => s.putReg rd v))) :=
  complete (.after hc fun _ _ => .putReg (.refl s f) hrd v)

/-- A command that only writes the results. -/
theorem setRes (r0 r1 : Word) : s.Runs f (.next (s.complete (.ok (s.setRes r0 r1)))) :=
  success ((State.Within.refl s f).setRes r0 r1)

/-- A command that checks and reads BUF first. -/
theorem finish {α : Type} {r : Except Stop α} {k : α → State} (hr : s.Reads f r)
    (hk : ∀ x, r = .ok x → s.Runs f (.next (k x))) : s.Runs f (s.finish r k) := by
  cases hr with
  | ok x => exact hk x rfl
  | raise he => exact .error (n := 0) (.inl rfl) he
  | fault hreads hx hbyte => exact .fault hreads hx hbyte

end State.Runs

end Sys2Proof.Machine
end

section
/-! PROOFS. Every command keeps within its footprint: the errors its computations can raise, what its checks
leave true, and the case analysis over the commands. -/

namespace Sys2Proof.Machine

/-! ### Only the decoder raises IllegalCommand -/

/-- An error passed on is still not IllegalCommand. -/
theorem error_ne_illegal {α β : Type} {r : Except ErrCode α} {e : ErrCode}
    (hr : r ≠ .error .illegalCommand) (he : r = .error e) :
    (.error e : Except ErrCode β) ≠ .error .illegalCommand :=
  fun h => hr (he.trans (congrArg _ (Except.error.inj h)))

theorem need_ne_illegal {c : Bool} {e : ErrCode} (he : e ≠ .illegalCommand) :
    need c e ≠ .error .illegalCommand := by
  cases c with
  | true => exact nofun
  | false => exact fun h => he (Except.error.inj h)

theorem checkModulus_ne_illegal (m : Int) : checkModulus m ≠ .error .illegalCommand := by
  rcases lt_trichotomy m 0 with hneg | rfl | hpos
  · rw [checkModulus_neg hneg]; exact nofun
  · exact nofun
  · rw [checkModulus_pos hpos]; exact nofun

theorem residueVerdict_ne_illegal (a p : Int) : residueVerdict a p ≠ .error .illegalCommand := by
  simp only [residueVerdict]
  split_ifs <;> exact nofun

theorem findNonResidue_ne_illegal (p : Int) (fuel : Nat) (z : Int) :
    findNonResidue p fuel z ≠ .error .illegalCommand := by
  induction fuel generalizing z with
  | zero => exact nofun
  | succ fuel ih =>
    simp only [findNonResidue]
    split_ifs
    case neg => exact ih _
    all_goals exact nofun

theorem tonelliLoop_ne_illegal (p : Int) (fuel M : Nat) (c t R : Int) :
    tonelliLoop p fuel M c t R ≠ .error .illegalCommand := by
  induction fuel generalizing M c t R with
  | zero => rw [tonelliLoop]; split <;> exact nofun
  | succ fuel ih =>
    rw [tonelliLoop]
    split
    · exact nofun
    · split
      · exact nofun
      · exact ih _ _ _ _

theorem tonelliShanks_ne_illegal (x p : Int) : tonelliShanks x p ≠ .error .illegalCommand := by
  simp only [tonelliShanks]
  split
  case h_1 e he => exact error_ne_illegal (findNonResidue_ne_illegal p _ 2) he
  case h_2 => exact tonelliLoop_ne_illegal p _ _ _ _ _

theorem rootOfResidue_ne_illegal (x p : Int) : rootOfResidue x p ≠ .error .illegalCommand := by
  simp only [rootOfResidue]
  split
  · exact nofun
  · split
    case h_1 e he => exact error_ne_illegal (tonelliShanks_ne_illegal x p) he
    case h_2 => exact nofun

theorem sqrtMod_ne_illegal (a p : Int) : sqrtMod a p ≠ .error .illegalCommand := by
  simp only [sqrtMod]
  split_ifs
  case neg =>
    split
    case h_1 e he => exact error_ne_illegal (rootOfResidue_ne_illegal _ p) he
    case h_2 => split <;> exact nofun
  all_goals exact nofun

theorem draw_ne_illegal (src : Source) (i : Nat) : draw src i ≠ .error .illegalCommand := by
  rcases draw_cases src i with ⟨r, -, e⟩ | ⟨-, e⟩ <;> rw [e] <;> exact nofun

theorem drawUniform_ne_illegal (src : Source) (i : Nat) (lo hi : Int) :
    drawUniform src i lo hi ≠ .error .illegalCommand := by
  rcases drawUniform_cases src i lo hi with ⟨r, -, e⟩ | ⟨-, e⟩ <;> rw [e] <;> exact nofun

theorem drawTopBit_ne_illegal (src : Source) (i n : Nat) : drawTopBit src i n ≠ .error .illegalCommand := by
  unfold drawTopBit
  rcases drawUniform_cases src i 0 (2 ^ (n - 1) - 1) with ⟨r, -, e⟩ | ⟨-, e⟩ <;> rw [e] <;> exact nofun

theorem drawMany_ne_illegal (src : Source) (lo hi : Int) (k i : Nat) :
    drawMany src lo hi k i ≠ .error .illegalCommand := by
  induction k generalizing i with
  | zero => exact nofun
  | succ k ih =>
    rw [drawMany]
    split
    case h_1 e he => exact error_ne_illegal (drawUniform_ne_illegal src i lo hi) he
    case h_2 =>
      split
      case h_1 e he => exact error_ne_illegal (ih (i + 1)) he
      case h_2 => exact nofun

theorem millerRabin_ne_illegal (src : Source) (i : Nat) (n : Int) (k : Nat) (td : Bool) :
    (millerRabin src i n k td).1 ≠ .error .illegalCommand := by
  unfold millerRabin
  split
  · exact nofun
  · dsimp only
    split
    case h_1 => exact nofun
    case h_2 e he => exact error_ne_illegal (drawMany_ne_illegal src 2 (n - 2) k i) he

theorem primeSearch_ne_illegal (src : Source) (n k left attempt i : Nat) :
    (primeSearch src n k left attempt i).1 ≠ .error .illegalCommand := by
  induction left generalizing attempt i with
  | zero => exact nofun
  | succ left ih =>
    rw [primeSearch]
    split
    case h_1 e he => exact error_ne_illegal (drawTopBit_ne_illegal src i n) he
    case h_2 v _ =>
      split
      case h_1 e used he =>
        exact error_ne_illegal (millerRabin_ne_illegal src (i + 1) (orOne v) k true) (congrArg Prod.fst he)
      case h_2 => exact nofun
      case h_3 => exact ih _ _

theorem randbitsValue_ne_illegal (src : Source) (i n : Nat) (odd : Bool) :
    randbitsValue src i n odd ≠ .error .illegalCommand := by
  unfold randbitsValue
  split
  · exact nofun
  · split
    · exact nofun
    · split
      case h_1 => exact nofun
      case h_2 e he => exact error_ne_illegal (drawTopBit_ne_illegal src i n) he

theorem checkRandbits_ne_illegal (n : Nat) (odd : Bool) : checkRandbits n odd ≠ .error .illegalCommand := by
  unfold checkRandbits
  cases hdomain : !(n == 0 && odd) with
  | false => exact nofun
  | true => exact need_ne_illegal nofun

theorem checkPrimegen_ne_illegal (n : Nat) : checkPrimegen n ≠ .error .illegalCommand := by
  unfold checkPrimegen
  cases hdomain : decide (2 ≤ n) with
  | false => exact nofun
  | true => exact need_ne_illegal nofun

theorem randomBytes_ne_illegal (src : Source) (i n : Nat) (nz : Bool) :
    randomBytes src i n nz ≠ .error .illegalCommand := by
  unfold randomBytes
  split
  · exact nofun
  · rcases draw_cases src i with ⟨r, -, e⟩ | ⟨-, e⟩ <;> rw [e] <;> exact nofun

theorem nonzeroBytesOf_length (r n : Nat) : (nonzeroBytesOf r n).length = n := by
  induction n generalizing r with
  | zero => rfl
  | succ n ih => rw [nonzeroBytesOf, List.length_cons, ih]

/-- A draw of bytes gives as many as asked for (R60, R353). -/
theorem randomBytes_length {src : Source} {i n : Nat} {nz : Bool} {bytes : List Byte}
    (h : randomBytes src i n nz = .ok bytes) : bytes.length = n := by
  unfold randomBytes at h
  split at h
  case isTrue hzero => rw [hzero, ← Except.ok.inj h]; rfl
  case isFalse =>
    rcases draw_cases src i with ⟨r, -, e⟩ | ⟨-, e⟩ <;> rw [e] at h
    · rw [← Except.ok.inj h]
      cases nz with
      | true => exact nonzeroBytesOf_length r n
      | false => exact toLE_length r n
    · cases h

/-! ### What a passed check leaves true -/

variable {s : State}

/-- A check that passes and what comes after it. -/
theorem ite_error_eq_ok {ε α : Type} {p : Prop} [Decidable p] {r : Except ε α} {e : ε} {y : α} :
    (if p then r else .error e) = .ok y ↔ p ∧ r = .ok y := by
  split <;> simp_all

/-- A read gives the bytes that its range holds (R104). -/
theorem read_eq_ok_iff {a n : Nat} {bytes : List Byte} :
    s.read a n = .ok bytes ↔ bytes.length = n ∧ s.Holds a bytes :=
  ⟨fun h => ⟨read_length s h, (read_eq_ok s (read_length s h)).mp h⟩,
    fun ⟨hlen, hold⟩ => (read_eq_ok s hlen).mpr hold⟩

/-- A Start reads the key and the input that its ranges hold (R460, R462). -/
theorem readKeyThenInput_eq_ok_iff {n : Nat} {key x : List Byte} :
    s.readKeyThenInput n = .ok (key, x) ↔
      (key.length = n ∧ s.Holds s.latched.arg4.toNat key) ∧
        x.length = s.latched.arg1.toNat ∧ s.Holds s.latched.arg0.toNat x := by
  refine ⟨fun h => ?_, fun ⟨⟨hkey, holdsKey⟩, hx, holdsX⟩ =>
    readKeyThenInput_of_holds hkey hx holdsKey holdsX⟩
  unfold State.readKeyThenInput at h
  cases hkey : s.read s.latched.arg4.toNat n with
  | error e => rw [hkey] at h; cases h
  | ok key' =>
    rw [hkey, except_ok_bind] at h
    cases hx : s.read s.latched.arg0.toNat s.latched.arg1.toNat with
    | error e => rw [hx] at h; cases h
    | ok x' =>
      rw [hx, except_ok_bind] at h
      cases h
      exact ⟨read_eq_ok_iff.mp hkey, read_eq_ok_iff.mp hx⟩

theorem storeChecks_ok {needed : Nat} {u : Unit} (h : s.storeChecks needed = .ok u) :
    s.latched.arg0.toNat + s.latched.arg1.toNat ≤ 65536 ∧ needed ≤ s.latched.arg1.toNat := by
  rw [storeChecks_eq, checkRange_bind, ite_error_eq_ok, require_eq_ok, decide_eq_true_iff] at h
  exact h

theorem blockOperands_ok {n : Nat} {key input : List Byte} (h : s.blockOperands n = .ok (key, input)) :
    s.latched.arg2.toNat + 16 ≤ 65536 := by
  rw [blockOperands_eq, ite_error_eq_ok, ite_error_eq_ok] at h
  obtain ⟨-, ⟨-, -, hdst⟩, -⟩ := h
  exact hdst

/-- The key and the chunk an AESENCS encrypts, and the checks they passed (R460). -/
theorem encStartOperands_ok_iff {mode : Mode} {n : Nat} {key p : List Byte} :
    s.encStartOperands mode n = .ok (key, p) ↔
      (n = 16 ∨ n = 24 ∨ n = 32) ∧
      (s.latched.arg0.toNat + s.latched.arg1.toNat ≤ 65536 ∧
        s.latched.arg2.toNat + s.latched.arg3.toNat ≤ 65536 ∧ s.latched.arg4.toNat + n ≤ 65536) ∧
      s.latched.arg1.toNat ≠ 0 ∧
      pad16 s.latched.arg1.toNat + ivLen mode ≤ s.latched.arg3.toNat ∧
      s.readKeyThenInput n = .ok (key, p) := by
  simp only [encStartOperands_eq, ite_error_eq_ok]

/-- The chunk an AESENCC encrypts, and the checks it passed (R461). -/
theorem encContOperands_ok_iff {k : CtxIx} {p : List Byte} :
    s.encContOperands k = .ok p ↔
      ((s.ctx k).active = true ∧ (s.ctx k).dir = .enc) ∧
      (s.latched.arg0.toNat + s.latched.arg1.toNat ≤ 65536 ∧
        s.latched.arg2.toNat + s.latched.arg3.toNat ≤ 65536) ∧
      s.latched.arg1.toNat ≠ 0 ∧ pad16 s.latched.arg1.toNat ≤ s.latched.arg3.toNat ∧
      s.read s.latched.arg0.toNat s.latched.arg1.toNat = .ok p := by
  simp only [encContOperands_eq, ite_error_eq_ok]

/-- The key and the ciphertext an AESDECS decrypts, and the checks they passed (R462). -/
theorem decStartOperands_ok_iff {mode : Mode} {n : Nat} {key x : List Byte} :
    s.decStartOperands mode n = .ok (key, x) ↔
      (n = 16 ∨ n = 24 ∨ n = 32) ∧
      (s.latched.arg0.toNat + s.latched.arg1.toNat ≤ 65536 ∧
        s.latched.arg2.toNat + s.latched.arg3.toNat ≤ 65536 ∧ s.latched.arg4.toNat + n ≤ 65536) ∧
      s.latched.arg1.toNat ≠ 0 ∧
      (s.latched.arg1.toNat % 16 = 0 ∧ 16 + ivLen mode ≤ s.latched.arg1.toNat) ∧
      s.readKeyThenInput n = .ok (key, x) := by
  simp only [decStartOperands_eq, ite_error_eq_ok]

/-- The ciphertext an AESDECC decrypts, and the checks it passed (R463). -/
theorem decContOperands_ok_iff {k : CtxIx} {x : List Byte} :
    s.decContOperands k = .ok x ↔
      ((s.ctx k).active = true ∧ (s.ctx k).dir = .dec) ∧
      (s.latched.arg0.toNat + s.latched.arg1.toNat ≤ 65536 ∧
        s.latched.arg2.toNat + s.latched.arg3.toNat ≤ 65536) ∧
      s.latched.arg1.toNat ≠ 0 ∧ s.latched.arg1.toNat % 16 = 0 ∧
      s.read s.latched.arg0.toNat s.latched.arg1.toNat = .ok x := by
  simp only [decContOperands_eq, ite_error_eq_ok]

/-! ### Legal contexts -/

/-- Chaining with a step that keeps the feedback keeps it (R455). -/
theorem chain_keeps_feedback {step : Block → Block → Block × Block} (h : ∀ fb b, (step fb b).2 = fb)
    (fb : Block) (bs : List Block) : (chain step fb bs).2 = fb := by
  induction bs generalizing fb with
  | nil => rfl
  | cons b bs ih => rw [chain, h, ih]

/-- ECB does not use its feedback (R455). -/
theorem encryptChunk_ecb_feedback {mode : Mode} (hecb : mode = .ecb) (key : List Byte) (fb : Block)
    (p : List Byte) : (encryptChunk mode key fb p).2 = fb :=
  chain_keeps_feedback (fun _ _ => by rw [hecb]; rfl) fb _

theorem decryptChunk_ecb_feedback {mode : Mode} (hecb : mode = .ecb) (key : List Byte) (fb : Block)
    (c : List Byte) : (decryptChunk mode key fb c).2 = fb :=
  chain_keeps_feedback (fun _ _ => by rw [hecb]; rfl) fb _

/-- A Start leaves a legal context (R51). -/
theorem startedCtx_legal (dir : Dir) {mode : Mode} {key : List Byte} {fb : Block}
    (hkey : key.length = 16 ∨ key.length = 24 ∨ key.length = 32) (hfb : mode = .ecb → fb = .zero) :
    (startedCtx dir mode key fb).Legal := by
  refine ⟨nofun, fun _ => ⟨hkey, fun i hi => ?_, hfb⟩⟩
  have hbyte : (keyField key)[i] = key.getD i 0 := by simp [keyField]
  exact hbyte.trans (List.getD_eq_default _ _ hi)

/-- A Continue changes the feedback of an active context, for ECB not even that (R455). -/
theorem Ctx.Legal.setFeedback {c : Ctx} (h : c.Legal) (hactive : c.active = true) {fb : Block}
    (hfb : c.mode = .ecb → fb = c.fb) : ({ c with fb := fb } : Ctx).Legal := by
  obtain ⟨hkeylen, hkey, hzero⟩ := h.2 hactive
  exact .intro (fun hinactive => nomatch hactive.symm.trans hinactive)
    (fun _ => ⟨hkeylen, hkey, fun hecb => (hfb hecb).trans (hzero hecb)⟩)

theorem Ctx.reset_legal : Ctx.reset.Legal := ⟨fun _ => rfl, nofun⟩

/-! ### The commands within their footprints -/

variable {f : Footprint} {u : State}

/-- The encryption of a Start writes no more than the capacity and leaves a legal context (R460). -/
theorem State.Computes.encStart (hu : s.Within f u) {k : CtxIx} (hk : k ∈ f.ctxs)
    (hstart : u.latched.dst = f.start) (hvalid : f.start + f.size ≤ 65536) {mode : Mode}
    {key p : List Byte} (hkey : key.length = 16 ∨ key.length = 24 ∨ key.length = 32)
    (hroom : pad16 p.length + ivLen mode ≤ f.size) (src : Source) (i : Nat) :
    s.Computes f (u.encStart src i k mode key p) := by
  have start (fb : Block) (iv : List Byte) (hiv : iv.length = ivLen mode)
      (hfb : mode = .ecb → fb = .zero) : s.Computes f (.ok (u.startEnc k mode key p fb iv)) := by
    have hlen : ((encryptChunk mode key fb p).1 ++ iv).length ≤ f.size := by
      rw [List.length_append, encryptChunk_length, ← pad16_eq, hiv]
      exact hroom
    have hzero (hecb : mode = .ecb) : (encryptChunk mode key fb p).2 = .zero :=
      (encryptChunk_ecb_feedback hecb key fb p).trans (hfb hecb)
    exact .ok (((hu.write hstart hvalid hlen).setCtx hk fun _ =>
      startedCtx_legal .enc hkey hzero).setRes _ _)
  unfold State.encStart
  split
  case isTrue hecb => exact start .zero [] (by rw [ivLen, if_pos hecb]; rfl) fun _ => rfl
  case isFalse hecb =>
    split
    case h_1 e he => exact .error fun h => draw_ne_illegal src i (he.trans (congrArg _ h))
    case h_2 r _ =>
      exact start _ _ (by rw [ivLen, if_neg hecb, bytesOf, toLE_length]) fun h => absurd h hecb

/-- The delivery of decrypted bytes writes no more than the capacity (R453, R462, R463). -/
theorem State.Computes.deliver (hu : s.Within f u) {k : CtxIx} (hk : k ∈ f.ctxs)
    (hstart : u.latched.dst = f.start) (hsize : u.latched.cap = f.size)
    (hvalid : f.start + f.size ≤ 65536) {c : Ctx} (hc : (s.ctx k).Legal → c.Legal) (q : List Byte) :
    s.Computes f (u.deliver k c q) := by
  unfold State.deliver
  split
  · exact .error nofun
  · split
    case isTrue hroom =>
      have hlen : (q.take _).length ≤ f.size := (List.length_take_le _ _).trans (hroom.trans hsize.le)
      exact .ok (((hu.write hstart hvalid hlen).setCtx hk hc).setRes _ _)
    case isFalse => exact .error nofun

open State in
/-- Every command ends within its footprint (R33, R502, R503, R555). -/
theorem exec_runs (i : Instr) (s : State) : s.Runs (footprint s.latched i) (exec i s) := by
  have same {f : Footprint} := Within.refl s f
  cases i with
  | nop => exact .setRes _ _
  | bseti rd imm => exact .putReg (List.mem_singleton_self rd) _
  | bmov rd rs1 => exact .putReg (List.mem_singleton_self rd) _
  | bneg rd rs1 => exact .putReg (List.mem_singleton_self rd) _
  | badd rd rs1 rs2 => exact .putReg (List.mem_singleton_self rd) _
  | bsub rd rs1 rs2 => exact .putReg (List.mem_singleton_self rd) _
  | bmul rd rs1 rs2 => exact .putReg (List.mem_singleton_self rd) _
  | bdivrem rd rd2 rs1 rs2 =>
    exact .complete (.after (need_ne_illegal nofun) fun _ _ =>
      (Computes.writeReg same (by simp [footprint, Footprint.toRegs]) _).andThen fun _ ht =>
        (Computes.writeReg ht (by simp [footprint, Footprint.toRegs]) _).andThen fun _ hu =>
          .ok (hu.setRes _ _))
  | bmod rd rs1 rs2 => exact .checked_putReg (checkModulus_ne_illegal _) (List.mem_singleton_self rd) _
  | bcmp rs1 rs2 => exact .setRes _ _
  | bshl rd rs1 k =>
    exact .checked_putReg (need_ne_illegal (e := .capacityExceeded) nofun) (List.mem_singleton_self rd) _
  | bshr rd rs1 k => exact .putReg (List.mem_singleton_self rd) _
  | bbitlen rs1 => exact .setRes _ _
  | bload rd le neg =>
    exact .finish (.input rfl) fun _ _ => .complete (.putReg same (List.mem_singleton_self rd) _)
  | bstore rs1 le =>
    refine .finish (.storeChecks _) fun _ h => .success ((same.write rfl ?_ ?_).setRes _ _)
    · exact (storeChecks_ok h).1
    · exact (exportBytes_length _ _ _).le
  | bfromdec rd =>
    refine .finish (.input rfl) fun bytes _ => .complete ?_
    cases parseDecimal bytes with
    | none => exact .error nofun
    | some v => exact .putReg same (List.mem_singleton_self rd) _
  | btodec rs1 =>
    refine .finish (.storeChecks _) fun _ h => .success ((same.write rfl ?_ ?_).setRes _ _)
    · exact (storeChecks_ok h).1
    · exact (storeChecks_ok h).2
  | bmodmul rd rs1 rs2 rs3 =>
    exact .checked_putReg (checkModulus_ne_illegal _) (List.mem_singleton_self rd) _
  | bmodexp rd rs1 rs2 rs3 =>
    exact .complete (.after (checkModulus_ne_illegal _) fun _ _ => .after (need_ne_illegal nofun) fun _ _ =>
      .putReg same (List.mem_singleton_self rd) _)
  | bgcd rd rs1 rs2 => exact .putReg (List.mem_singleton_self rd) _
  | bextgcd rd rd2 rd3 rs1 rs2 =>
    exact .complete ((Computes.writeReg same (by simp [footprint, Footprint.toRegs]) _).andThen fun _ ht =>
      (Computes.writeReg ht (by simp [footprint, Footprint.toRegs]) _).andThen fun _ hu =>
        (Computes.writeReg hu (by simp [footprint, Footprint.toRegs]) _).andThen fun _ hv =>
          .ok (hv.setRes _ _))
  | bmodinv rd rs1 rs2 =>
    exact .complete (.after (checkModulus_ne_illegal _) fun _ _ => .after (need_ne_illegal nofun) fun _ _ =>
      .putReg same (List.mem_singleton_self rd) _)
  | qrtest rs1 rs2 =>
    exact .complete (.after (need_ne_illegal nofun) fun _ _ => .after (residueVerdict_ne_illegal _ _) fun _ _ =>
      .ok (same.setRes _ _))
  | sqrtmod rd rs1 rs2 =>
    exact .complete (.after (need_ne_illegal nofun) fun _ _ => .after (sqrtMod_ne_illegal _ _) fun _ _ =>
      (Computes.writeReg same (List.mem_singleton_self rd) _).andThen fun _ ht => .ok (ht.setRes _ _))
  | randbits rd odd n =>
    exact .spend_complete (.inr rfl) (.after (checkRandbits_ne_illegal _ _) fun _ _ =>
      .after (randbitsValue_ne_illegal _ _ _ _) fun _ _ =>
        .putReg (same.spend (.inr rfl)) (List.mem_singleton_self rd) _)
  | randrange rd rs1 rs2 =>
    exact .spend_complete (.inr rfl) (.after (need_ne_illegal nofun) fun _ _ =>
      .after (drawUniform_ne_illegal _ _ _ _) fun _ _ =>
        .putReg (same.spend (.inr rfl)) (List.mem_singleton_self rd) _)
  | randbytes nz =>
    exact .spend_complete (.inr rfl) (.after (need_ne_illegal nofun) fun _ hrange =>
      .after (randomBytes_ne_illegal _ _ _ _) fun bytes hbytes =>
        .ok (((same.spend (.inr rfl)).write rfl (rangeOk_iff.mp (need_eq_ok.mp hrange))
          (randomBytes_length hbytes).le).setRes _ _))
  | mrtest rs1 td k =>
    exact .spend_complete (.inr rfl) (.after (millerRabin_ne_illegal _ _ _ _ _) fun _ _ =>
      .ok ((same.spend (.inr rfl)).setRes _ _))
  | primegen rd bits rounds =>
    simp only [exec, execPrimegen]
    split
    case h_1 e he =>
      exact .error (n := 0) (.inl rfl) fun h => checkPrimegen_ne_illegal _ (he.trans (congrArg _ h))
    case h_2 =>
      exact .spend_complete (.inr rfl) (.after (primeSearch_ne_illegal _ _ _ _ _ _) fun _ _ =>
        (Computes.writeReg (same.spend (.inr rfl)) (List.mem_singleton_self rd) _).andThen fun _ ht =>
          .ok (ht.setRes _ _))
  | aesblk dec keylen =>
    exact .finish (.blockOperands rfl _) fun _ h =>
      .success ((same.write rfl (blockOperands_ok h) (Block.toBytes_length _).le).setRes _ _)
  | aesencs k mode keylen =>
    refine .finish (.encStartOperands rfl _ _) fun ⟨key, p⟩ h => .spend_complete (.inr rfl) ?_
    obtain ⟨hlen, ⟨-, hdst, -⟩, -, hroom, hread⟩ := encStartOperands_ok_iff.mp h
    obtain ⟨⟨hkey, -⟩, hp, -⟩ := readKeyThenInput_eq_ok_iff.mp hread
    exact .encStart (same.spend (.inr rfl)) (List.mem_singleton_self k) rfl hdst (hkey ▸ hlen)
      (hp ▸ hroom) _ _
  | aesencc k =>
    refine .finish (.encContOperands rfl _) fun p h => .success ?_
    obtain ⟨⟨hactive, -⟩, ⟨-, hdst⟩, -, hroom, hread⟩ := encContOperands_ok_iff.mp h
    have hlen : (encryptChunk (s.ctx k).mode (s.ctx k).keyBytes (s.ctx k).fb p).1.length ≤
        s.latched.arg3.toNat := by
      rw [encryptChunk_length, ← pad16_eq, (read_length s hread)]
      exact hroom
    exact ((same.write rfl hdst hlen).setCtx (List.mem_singleton_self k) fun hlegal =>
      hlegal.setFeedback hactive fun hecb =>
        encryptChunk_ecb_feedback hecb _ _ _).setRes _ _
  | aesdecs k mode keylen =>
    refine .finish (.decStartOperands rfl _ _) fun ⟨key, x⟩ h => .complete ?_
    obtain ⟨hlen, ⟨-, hdst, -⟩, -, -, hread⟩ := decStartOperands_ok_iff.mp h
    obtain ⟨⟨hkey, -⟩, -, -⟩ := readKeyThenInput_eq_ok_iff.mp hread
    exact .deliver same (List.mem_singleton_self k) rfl rfl hdst (fun _ =>
      startedCtx_legal .dec (hkey ▸ hlen) fun hecb =>
        (decryptChunk_ecb_feedback hecb _ _ _).trans (if_pos hecb)) _
  | aesdecc k =>
    refine .finish (.decContOperands rfl _) fun x h => .complete ?_
    obtain ⟨⟨hactive, -⟩, ⟨-, hdst⟩, -, -, -⟩ := decContOperands_ok_iff.mp h
    exact .deliver same (List.mem_singleton_self k) rfl rfl hdst (fun hlegal =>
      hlegal.setFeedback hactive fun hecb =>
        decryptChunk_ecb_feedback hecb _ _ _) _
  | aesclr k =>
    exact .complete (.ok ((same.setCtx (List.mem_singleton_self k) fun _ => Ctx.reset_legal).setRes _ _))
  | aeslen mode dir first => exact .setRes _ _

end Sys2Proof.Machine
end

section
/-! PROOFS. The host port on every offset: what a read and a write can be, the STATUS word, and the bytes of
the window (10_state.md section 3, 20_memory.md sections 3 and 4). -/

namespace Sys2Proof.Machine

variable (s : State)

/-! ### Every access -/

/-- A block offset is in the register block, in the window or outside (R40); the reserved tail is empty. -/
theorem offset_cases (offset : Nat) :
    offset < 0x10000 ∨ (∃ a < 65536, offset = 0x10000 + a) ∨ 0x20000 ≤ offset := by
  by_cases h : offset < 0x10000
  · exact .inl h
  · by_cases h' : offset < 0x20000
    · exact .inr (.inl ⟨offset - 0x10000, by omega, by omega⟩)
    · exact .inr (.inr (not_lt.mp h'))

theorem regionOf_outside {offset : Nat} (h : 0x20000 ≤ offset) : regionOf offset = .outside := by
  have notRegister : ¬ offset < 0x10000 := by omega
  have notWindow : ¬ offset < 0x10000 + Config.bufBytes := not_lt.mpr h
  rw [regionOf, if_neg notRegister, if_neg notWindow, if_neg (not_lt.mpr h)]

/-- The core does not decode an offset from 0x20000 on (R40, log 7). -/
theorem hostAccess_read_outside {offset : Nat} (h : 0x20000 ≤ offset) (width : Nat) :
    s.hostAccess (.read offset width) = .next (s.answer .notDecoded) := by
  simp only [State.hostAccess, State.hostRead, regionOf_outside h]

theorem hostAccess_write_outside {offset : Nat} (h : 0x20000 ≤ offset) (width : Nat) (v : Word) :
    s.hostAccess (.write offset width v) = .next (s.answer .notDecoded) := by
  simp only [State.hostAccess, State.hostWrite, regionOf_outside h]

/-- A read that goes on records its answer and changes nothing else (R114). -/
theorem hostAccess_read_cases {t : State} {offset width : Nat}
    (h : s.hostAccess (.read offset width) = .next t) : ∃ r, t = s.answer r := by
  have answered {r : Resp} (e : s.hostAccess (.read offset width) = .next (s.answer r)) :
      ∃ r, t = s.answer r := ⟨r, Host.Outcome.next.inj (h.symm.trans e)⟩
  rcases offset_cases offset with hreg | ⟨a, ha, rfl⟩ | hout
  · by_cases hlegal : width = 8 ∧ offset % 8 = 0
    · obtain ⟨rfl, haligned⟩ := hlegal
      exact answered (hostAccess_read_register s hreg haligned)
    · exact answered (hostAccess_read_register_illegal s hreg hlegal)
  · by_cases hlegal : s.seq = .idle ∧ WindowAligned a width
    · obtain ⟨hidle, haligned⟩ := hlegal
      have hread := hostAccess_read_window s ha hidle haligned
      rcases readWindow_cases s a width with ⟨bytes, -, hanswer⟩ | ⟨f, -, hfault⟩
      · exact answered (hread.trans hanswer)
      · exact nomatch h.symm.trans (hread.trans hfault)
    · exact answered (hostAccess_read_window_illegal s ha hlegal)
  · exact answered (hostAccess_read_outside s hout width)

/-- A write is answered without effect, is a register's write, or stores bytes inside the idle window (R107,
R110, R111). -/
theorem hostAccess_write_cases {t : State} {offset width : Nat} {v : Word}
    (h : s.hostAccess (.write offset width v) = .next t) :
    (∃ r, t = s.answer r) ∨ t = (s.writeRegister offset v).answer .ack ∨
      ∃ a, a + width ≤ 65536 ∧ t = (s.write a (toLE v.toNat width)).answer .ack := by
  have ends {u : State} (e : s.hostAccess (.write offset width v) = .next u) : t = u :=
    Host.Outcome.next.inj (h.symm.trans e)
  rcases offset_cases offset with hreg | ⟨a, ha, rfl⟩ | hout
  · by_cases hlegal : width = 8 ∧ offset % 8 = 0
    · obtain ⟨rfl, haligned⟩ := hlegal
      exact .inr (.inl (ends (hostAccess_write_register s hreg haligned v)))
    · exact .inl ⟨_, ends (hostAccess_write_register_illegal s hreg hlegal v)⟩
  · by_cases hlegal : s.seq = .idle ∧ WindowAligned a width
    · obtain ⟨hidle, haligned⟩ := hlegal
      exact .inr (.inr ⟨a, haligned.inside ha, ends (hostAccess_write_window s ha hidle haligned v)⟩)
    · exact .inl ⟨_, ends (hostAccess_write_window_illegal s ha hlegal v)⟩
  · exact .inl ⟨_, ends (hostAccess_write_outside s hout width v)⟩

/-- Settles O20: every read is answered without effect, and so is every access outside the core. -/
theorem hostReadsChangeNothing : Obligations.HostReadsChangeNothing := by
  refine ⟨fun s t offset width h => ?_, fun s offset width v hout =>
    ⟨hostAccess_read_outside s hout width, hostAccess_write_outside s hout width v⟩⟩
  obtain ⟨r, rfl⟩ := hostAccess_read_cases s h
  rfl

/-! ### STATUS -/

/-- The number of the STATUS word, by its fields (R44). -/
theorem statusWord_toNat : s.statusWord.toNat =
    bit s.busy + 2 * bit s.done + 4 * bit s.dropped + 8 * bit s.err + 256 * s.errcode.toNat := by
  have bit_le (b : Bool) : bit b ≤ 1 := by cases b <;> decide
  have hbusy := bit_le s.busy
  have hdone := bit_le s.done
  have hdropped := bit_le s.dropped
  have herr := bit_le s.err
  have hcode := s.errcode.isLt
  rw [State.statusWord, BitVec.toNat_ofNat]
  omega

/-- STATUS with a 1 in bit 1 or 2 clears DONE or DROPPED, and nothing else responds (R44). -/
theorem writeStatus_eq (v : Word) : s.writeStatus v =
    { s with done := s.done && !v.getLsbD 1, dropped := s.dropped && !v.getLsbD 2 } := by
  cases h1 : v.getLsbD 1 <;> cases h2 : v.getLsbD 2 <;>
    simp only [State.writeStatus, h1, h2, Bool.not_false, Bool.not_true, Bool.and_true, Bool.and_false] <;> rfl

/-- Bit `i` of a word is bit `i` of its number. -/
theorem getLsbD_eq_true_iff (v : Word) (i : Nat) : v.getLsbD i = true ↔ v.toNat / 2 ^ i % 2 = 1 := by
  rw [BitVec.getLsbD, Nat.testBit_eq_decide_div_mod_eq, decide_eq_true_iff]

theorem bit_eq_one_iff (b : Bool) : bit b = 1 ↔ b = true := by cases b <;> decide

theorem bit_le_one (b : Bool) : bit b ≤ 1 := by cases b <;> decide

/-- Settles O11: the fields of the STATUS word's number, and the STATUS write. -/
theorem statusRegisterReadsAndClears : Obligations.StatusRegisterReadsAndClears := by
  refine fun s => ⟨⟨s.statusWord, hostAccess_read_register s (by decide) (by decide), ?_⟩, fun x => ?_⟩
  · have number := statusWord_toNat s
    have hbusy := bit_le_one s.busy
    have hdone := bit_le_one s.done
    have hdropped := bit_le_one s.dropped
    have herr := bit_le_one s.err
    have hcode := s.errcode.isLt
    refine ⟨?_, ?_, ?_, ?_, ?_, ?_, ?_⟩
    · rw [Ne, ← not_busy_iff, Bool.not_eq_false, ← bit_eq_one_iff s.busy, getLsbD_eq_true_iff]
      omega
    · rw [Bool.eq_iff_iff, ← bit_eq_one_iff s.done, getLsbD_eq_true_iff]
      omega
    · rw [Bool.eq_iff_iff, ← bit_eq_one_iff s.dropped, getLsbD_eq_true_iff]
      omega
    · have herr_iff : s.err = true ↔ s.errcode ≠ 0 := bne_iff_ne
      rw [← herr_iff, ← bit_eq_one_iff s.err, getLsbD_eq_true_iff]
      omega
    · refine BitVec.eq_of_toNat_eq ?_
      rw [BitVec.extractLsb'_toNat, Nat.shiftRight_eq_div_pow]
      change _ = 0
      omega
    · refine BitVec.eq_of_toNat_eq ?_
      rw [BitVec.extractLsb'_toNat, Nat.shiftRight_eq_div_pow]
      omega
    · refine BitVec.eq_of_toNat_eq ?_
      rw [BitVec.extractLsb'_toNat, Nat.shiftRight_eq_div_pow]
      change _ = 0
      omega
  · have write : s.hostAccess (.write 0x018 8 x) = .next ((s.writeStatus x).answer .ack) :=
      hostAccess_write_register s (by decide) (by decide) x
    rw [write, writeStatus_eq]
    rfl

/-! ### The bytes of the window -/

/-- A window read of written bytes answers their value (R107). -/
theorem readWindow_of_holds {a : Nat} {bytes : List Byte} (h : s.Holds a bytes) :
    s.readWindow a bytes.length = .next (s.answer (.data (natRes (leValue bytes)))) := by
  have hread : memRead .host s.buf a bytes.length = .ok bytes := (memRead_eq_ok rfl).mpr h
  rw [State.readWindow, hread]

/-- Where a read succeeds every byte of its range is written (R555). -/
theorem written_of_memRead_ok {g : Agent} {a n : Nat} {bytes : List Byte}
    (h : memRead g s.buf a n = .ok bytes) : s.Written a n := by
  intro x hlo hhi
  have hlen := memRead_length h
  have hbyte := (memRead_eq_ok hlen).mp h (x - a) (by omega)
  rw [Nat.add_sub_cancel' hlo] at hbyte
  exact ⟨_, hbyte⟩

/-- Settles O19: the bytes of the written word, the value of the read ones, and the first unwritten one. -/
theorem windowIsLittleEndian : Obligations.WindowIsLittleEndian := by
  intro s a width v hwf hidle ha hwidth hmultiple
  have haligned : WindowAligned a width := ⟨hwidth, hmultiple⟩
  have hread := hostAccess_read_window s ha hidle haligned
  refine ⟨⟨_, hostAccess_write_window s ha hidle haligned v, rfl, fun x => ?_⟩, fun bytes hlen hold => ?_,
    fun hunwritten => ?_⟩
  · rw [State.answer_buf, State.write_buf, memGet_memWrite _ hwf.1, toLE_length]
    refine if_ctx_congr Iff.rfl (fun hx => ?_) fun _ => rfl
    rw [toLE_getElem?, if_pos (by omega)]
  · rw [hread, ← hlen, readWindow_of_holds s hold, leValue_eq_ofDigits]
    rfl
  · rcases readWindow_cases s a width with ⟨bytes, hok, -⟩ | ⟨f, herror, hfault⟩
    · exact absurd (written_of_memRead_ok s hok) hunwritten
    · obtain ⟨x, hlo, hhi, hbyte, rfl⟩ := memRead_error herror
      exact ⟨x, hlo, hhi, hbyte, hread.trans hfault⟩

end Sys2Proof.Machine
end

section
/-! PROOFS. The statements about all commands, read off `exec_runs` and `exec_completesAs`: what every
completion keeps, which commands stop the machine, and the frames. -/

namespace Sys2Proof.Machine

variable {s t : State} {f : Footprint}

/-! ### Completions -/

/-- The error codes of R501, of which IllegalCommand is number 1. -/
theorem code_le (e : ErrCode) : e.code.toNat ≤ 13 := by cases e <;> decide

theorem code_eq_one_iff {e : ErrCode} : e.code = 1 ↔ e = .illegalCommand := by cases e <;> decide

/-- A completed command leaves the success code or the code of an error that is not IllegalCommand. -/
theorem State.Runs.errcode (h : s.Runs f (.next t)) : t.errcode.toNat ≤ 13 ∧ t.errcode ≠ 1 := by
  cases h with
  | success => exact ⟨Nat.zero_le _, by rw [State.succeed_errcode]; decide⟩
  | error hn he => exact ⟨code_le _, mt code_eq_one_iff.mp he⟩

/-- A completion frees the sequencer and keeps CMD_LAST, DROPPED, `rst` and the model's own fields. -/
theorem State.CompletesTo.keeps (h : s.CompletesTo t) :
    t.seq = .idle ∧ t.cmdLast = s.cmdLast ∧ t.dropped = s.dropped ∧ t.rst = s.rst ∧
      t.events = s.events ∧ t.resp = s.resp ∧ s.draws ≤ t.draws := by
  cases h with
  | success h => exact ⟨rfl, h.cmdLast, h.dropped, h.rst, h.events, h.resp, h.draws⟩
  | error n e => exact ⟨rfl, rfl, rfl, rfl, rfl, rfl, Nat.le_add_right _ _⟩

/-- Settles O21, from the two ends a completion can have. -/
theorem everyCompletionKeepsTheHostRegisters : Obligations.EveryCompletionKeepsTheHostRegisters := by
  intro i s t h
  obtain ⟨hseq, hcmd, hdropped, hrst, hevents, hresp, hdraws⟩ := (exec_completesAs s i t h).keeps
  obtain ⟨hle, hne⟩ := (h ▸ exec_runs i s).errcode
  exact ⟨exec_done h, hseq, hle, hne, hcmd, exec_args h, exec_irqEn h, hdropped, hrst, hevents, hresp,
    hdraws⟩

/-! ### Frames -/

/-- A register that changes is a destination (R33). -/
theorem State.Runs.reg_changed (h : s.Runs f (.next t)) {j : Reg} (hj : t.reg j ≠ s.reg j) :
    j ∈ f.regs := by
  cases h with
  | success h => exact ((h.regs j).resolve_left hj).1
  | error => exact absurd rfl hj

/-- A context that changes is named (R33). -/
theorem State.Runs.ctx_changed (h : s.Runs f (.next t)) {k : CtxIx} (hk : t.ctx k ≠ s.ctx k) :
    k ∈ f.ctxs := by
  cases h with
  | success h => exact ((h.ctxs k).resolve_left hk).1
  | error => exact absurd rfl hk

/-- A byte that changes is in the range the command writes (R106). -/
theorem State.Runs.byte_changed (h : s.Runs f (.next t)) (hwf : Memory.wf s.buf) {x : Nat}
    (hx : memGet t.buf x ≠ memGet s.buf x) : f.start ≤ x ∧ x < f.start + f.size := by
  cases h with
  | success h => exact (h.bytes hwf x).resolve_left hx
  | error => exact absurd rfl hx

/-- Only a command that draws advances the count of draws (log 2). -/
theorem State.Runs.draws_changed (h : s.Runs f (.next t)) (ht : t.draws ≠ s.draws) : f.draws = true := by
  cases h with
  | success h => exact h.draws.resolve_left ht
  | error hn =>
    refine hn.resolve_left ?_
    rintro rfl
    exact ht rfl

/-- Settles O24: what changes is in the footprint, and the footprint is that of the statement. -/
theorem commandsTouchOnlyTheirDestinations : Obligations.CommandsTouchOnlyTheirDestinations := by
  intro i s t hwf h
  have runs : s.Runs (footprint s.latched i) (.next t) := h ▸ exec_runs i s
  refine ⟨fun j hj => ?_, fun k hk => ?_, fun x hx => ?_, fun hdraws => ?_⟩
  · have hmem := runs.reg_changed hj
    cases i with
    | nop | bcmp | bbitlen | qrtest | aeslen | bstore | btodec | randbytes | mrtest | aesblk | aesencs
    | aesencc | aesdecs | aesdecc | aesclr => exact List.not_mem_nil hmem
    | bdivrem | bextgcd => simpa [footprint, Footprint.toRegs] using hmem
    | _ => exact List.mem_singleton.mp hmem
  · have hmem := runs.ctx_changed hk
    cases i with
    | aesencs | aesencc | aesdecs | aesdecc | aesclr => exact List.mem_singleton.mp hmem
    | _ => exact List.not_mem_nil hmem
  · have hrange := runs.byte_changed hwf hx
    cases i with
    | bstore | btodec | randbytes | aesblk | aesencs | aesencc | aesdecs | aesdecc => exact hrange
    | _ => exact Nat.not_lt_zero x hrange.2
  · have hdraws := runs.draws_changed hdraws
    cases i with
    | randbits | randrange | randbytes | mrtest | primegen | aesencs => trivial
    | _ => exact Bool.false_ne_true hdraws

/-! ### Stops -/

/-- A range that is not all written is not read: the read faults at an unwritten byte of it (R555). -/
theorem read_of_not_written {a n : Nat} (h : ¬ s.Written a n) :
    ∃ x, a ≤ x ∧ x < a + n ∧ memGet s.buf x = none ∧
      s.read a n = .error (.fault (.unwrittenRead .core x)) := by
  cases hread : s.read a n with
  | ok bytes =>
    refine absurd (fun x hlo hhi => ?_) h
    obtain ⟨hlen, hold⟩ := read_eq_ok_iff.mp hread
    have hbyte := hold (x - a) (by omega)
    rw [Nat.add_sub_cancel' hlo] at hbyte
    exact ⟨_, hbyte⟩
  | error e =>
    obtain ⟨x, hlo, hhi, hbyte, rfl⟩ := read_error s hread
    exact ⟨x, hlo, hhi, hbyte, rfl⟩

theorem length_ne_zero_of_not_written {a n : Nat} (h : ¬ s.Written a n) : n ≠ 0 := by
  rintro rfl
  exact h fun x hlo hhi => absurd hhi (not_lt.mpr hlo)

/-- `o` is the core's fault at an unwritten byte of one of the ranges. -/
def State.StopsIn (s : State) (ranges : List (Nat × Nat)) (o : Host.Outcome State Fault Refusal) : Prop :=
  ∃ r ∈ ranges, ∃ x, r.1 ≤ x ∧ x < r.1 + r.2 ∧ memGet s.buf x = none ∧
    o = .fault (.unwrittenRead .core x)

/-- A command that has passed its checks and reads one range stops where that is not all written. -/
theorem finish_read_stops {a n : Nat} (h : ∃ r ∈ [(a, n)], ¬ s.Written r.1 r.2) (k : List Byte → State) :
    s.StopsIn [(a, n)] (s.finish (s.read a n) k) := by
  obtain ⟨_, hr, hunwritten⟩ := h
  obtain rfl := List.mem_singleton.mp hr
  obtain ⟨x, hlo, hhi, hbyte, hread⟩ := read_of_not_written hunwritten
  exact ⟨(a, n), hr, x, hlo, hhi, hbyte, by rw [hread, finish_fault]⟩

/-- A command that has passed its checks and reads two ranges stops in the first that is not all written. -/
theorem finish_read_read_stops {a n b m : Nat} (h : ∃ r ∈ [(a, n), (b, m)], ¬ s.Written r.1 r.2)
    (k : List Byte × List Byte → State) :
    s.StopsIn [(a, n), (b, m)]
      (s.finish (s.read a n >>= fun key => s.read b m >>= fun input => .ok (key, input)) k) := by
  by_cases hkey : s.Written a n
  · have hinput : ¬ s.Written b m := by simpa [hkey] using h
    obtain ⟨x, hlo, hhi, hbyte, hread⟩ := read_of_not_written hinput
    cases hfirst : s.read a n with
    | ok key =>
      refine ⟨(b, m), by simp, x, hlo, hhi, hbyte, ?_⟩
      rw [except_ok_bind, hread, except_error_bind, finish_fault]
    | error e =>
      obtain ⟨y, hlo, hhi, hnone, rfl⟩ := read_error s hfirst
      exact ⟨(a, n), by simp, y, hlo, hhi, hnone, by rw [except_error_bind, finish_fault]⟩
  · obtain ⟨x, hlo, hhi, hbyte, hread⟩ := read_of_not_written hkey
    exact ⟨(a, n), by simp, x, hlo, hhi, hbyte, by rw [hread, except_error_bind, finish_fault]⟩

/-- BLOAD and BFROMDEC stop where their input is not all written (R230, R232). -/
theorem finish_input_stops (hrange : s.latched.arg0.toNat + s.latched.arg1.toNat ≤ 65536)
    (h : ∃ r ∈ [(s.latched.arg0.toNat, s.latched.arg1.toNat)], ¬ s.Written r.1 r.2)
    (k : List Byte → State) :
    s.StopsIn [(s.latched.arg0.toNat, s.latched.arg1.toNat)] (s.finish s.input k) := by
  have hne : s.latched.arg1.toNat ≠ 0 := length_ne_zero_of_not_written (by simpa using h)
  rw [input_eq, checkRange_bind, if_pos hrange, require_bind, if_pos (bne_iff_ne.mpr hne)]
  exact finish_read_stops h k

/-- A fault is the core's, at an unwritten byte, of a command that reads the buffer (R555). -/
theorem State.Runs.fault_cases {g : Fault} (h : s.Runs f (.fault g)) :
    f.reads = true ∧ ∃ x < 65536, memGet s.buf x = none ∧ g = .unwrittenRead .core x := by
  cases h with
  | fault hreads hx hbyte => exact ⟨hreads, _, hx, hbyte, rfl⟩

/-- Settles O23: a fault comes from a read; and where the checks pass, the reads are all that is left. -/
theorem onlyUnwrittenReadsStopACommand : Obligations.OnlyUnwrittenReadsStopACommand := by
  refine ⟨fun i s => ⟨fun r hr => ?_, fun g hg => ?_⟩, ?_⟩
  · exact nomatch hr ▸ exec_runs i s
  · obtain ⟨hreads, x, hx, hbyte, hfault⟩ := (hg ▸ exec_runs i s).fault_cases
    refine ⟨x, hx, hbyte, hfault, ?_⟩
    cases i with
    | bload | bfromdec | aesblk | aesencs | aesencc | aesdecs | aesdecc => trivial
    | _ => exact Bool.false_ne_true hreads
  · intro s rd le neg dec k mode imm KL src L dst cap ka iv lenOk chunkOk isOpen stops
    have hiv : ivLen mode = iv := rfl
    refine ⟨fun hrange => ⟨fun h => finish_input_stops hrange h _, fun h => finish_input_stops hrange h _⟩,
      fun hlen hkey hsrc hdst h => ?_, fun hlen ⟨hsrc, hdst⟩ hkey hne hroom h => ?_,
      fun hopen hchunk hroom h => ?_, fun hlen ⟨hsrc, hdst⟩ hkey hwhole hleast h => ?_,
      fun hopen hchunk hwhole h => ?_⟩
    · rw [execAesblk_eq, blockOperands_eq, if_pos hlen, if_pos ⟨hkey, hsrc, hdst⟩]
      exact finish_read_read_stops h _
    · rw [execAesencs_eq, encStartOperands_eq, if_pos hlen, if_pos ⟨hsrc, hdst, hkey⟩, if_pos hne, pad16_eq,
        hiv, if_pos hroom]
      exact finish_read_read_stops h _
    · have hne : L ≠ 0 := length_ne_zero_of_not_written (by simpa using h)
      rw [execAesencc_eq, encContOperands_eq, if_pos hopen, if_pos hchunk, if_pos hne, pad16_eq,
        if_pos hroom]
      exact finish_read_stops h _
    · have hne : L ≠ 0 := by omega
      rw [execAesdecs_eq, decStartOperands_eq, if_pos hlen, if_pos ⟨hsrc, hdst, hkey⟩, if_pos hne,
        hiv, if_pos ⟨hwhole, hleast⟩]
      exact finish_read_read_stops h _
    · have hne : L ≠ 0 := length_ne_zero_of_not_written (by simpa using h)
      rw [execAesdecc_eq, decContOperands_eq, if_pos hopen, if_pos hchunk, if_pos hne, if_pos hwhole]
      exact finish_read_stops h _

end Sys2Proof.Machine
end

section
/-! PROOFS. The legal states (R30, R45, R50, R100, R550): reset is legal, and a host access, a completion, a
change of `rst` and a step in reset each keep a legal state legal. -/

namespace Sys2Proof.Machine

variable {s t : State}

/-! ### Resets -/

theorem idle_busyClean (h : s.seq = .idle) : s.BusyClean := fun _ _ hbusy => nomatch h.symm.trans hbusy

theorem released_rstHeld (h : s.rst = false) : s.RstHeld := fun hrst => nomatch h.symm.trans hrst

/-- A state with the registers, the contexts, the sequencer and ERRCODE of reset is legal where its buffer
and its reset level are. -/
theorem legal_of_reset (hregs : t.regs = State.reset.regs) (hctxs : t.ctxs = State.reset.ctxs)
    (hseq : t.seq = .idle) (hcode : t.errcode = 0) (hbuf : Memory.wf t.buf) (hrst : t.RstHeld) :
    t.Legal where
  regs i := by
    rw [State.reg_congr hregs, State.reset_reg, cap_eq]
    exact natAbs_zero_lt 8192
  ctxs k := by
    rw [State.ctx_congr hctxs, State.reset_ctx]
    exact Ctx.reset_legal
  buf := hbuf
  errcode := by rw [hcode]; decide
  busyClean := idle_busyClean hseq
  rstHeld := hrst

theorem empty_wf : Memory.wf [] := ⟨.nil, nofun⟩

/-- Settles O2: every element of the reset state is legal. -/
theorem resetStateIsLegal : Obligations.ResetStateIsLegal :=
  legal_of_reset rfl rfl rfl rfl empty_wf (released_rstHeld rfl)

theorem assertRst_legal (s : State) : s.assertRst.Legal :=
  legal_of_reset rfl rfl rfl rfl empty_wf fun _ => rfl

theorem softReset_legal (h : s.Legal) (hrst : s.rst = false) : s.softReset.Legal :=
  legal_of_reset rfl rfl rfl rfl h.buf (released_rstHeld hrst)

/-! ### Changes outside the stored data -/

/-- A change that keeps the registers, the contexts, the buffer and ERRCODE keeps a state legal where the
running command and the reset level stay so. -/
theorem State.Legal.congr (h : s.Legal) (hregs : t.regs = s.regs) (hctxs : t.ctxs = s.ctxs)
    (hbuf : t.buf = s.buf) (hcode : t.errcode = s.errcode) (hbusy : t.BusyClean) (hrst : t.RstHeld) :
    t.Legal where
  regs i := State.reg_congr hregs i ▸ h.regs i
  ctxs k := State.ctx_congr hctxs k ▸ h.ctxs k
  buf := hbuf ▸ h.buf
  errcode := hcode ▸ h.errcode
  busyClean := hbusy
  rstHeld := hrst

/-- The list of events is no part of what is legal (log 4). -/
theorem State.Legal.setEvents (h : s.Legal) (es : List Event) : ({ s with events := es } : State).Legal :=
  h.congr rfl rfl rfl rfl h.busyClean fun hrst => by
    have held := h.rstHeld hrst
    rw [held]

theorem State.Legal.releaseRst (h : s.Legal) : s.releaseRst.Legal :=
  h.congr rfl rfl rfl rfl h.busyClean (released_rstHeld rfl)

/-- A step while `rst` is asserted takes events off the list and releases `rst`, no more (log 8). -/
theorem stepInReset_legal (h : s.Legal) : s.stepInReset.Legal := by
  unfold State.stepInReset
  split
  · exact h
  · split
    · exact h.releaseRst.setEvents _
    · exact h
  · exact h.releaseRst.setEvents _
  · exact h.setEvents _
  · exact h.setEvents _

/-! ### Host accesses -/

theorem State.Legal.answer (h : s.Legal) (hrst : s.rst = false) (r : Resp) : (s.answer r).Legal :=
  h.congr rfl rfl rfl rfl h.busyClean (released_rstHeld hrst)

/-- CTRL takes IRQ_EN or resets (R43, R552). -/
theorem writeCtrl_legal (h : s.Legal) (hrst : s.rst = false) (v : Word) : (s.writeCtrl v).Legal := by
  cases hbit : v.getLsbD 1 with
  | true => rw [writeCtrl_reset s hbit]; exact softReset_legal h hrst
  | false =>
    rw [writeCtrl_enable s hbit]
    exact h.congr rfl rfl rfl rfl h.busyClean (released_rstHeld hrst)

/-- STATUS clears DONE and DROPPED, so a running command stays clean (R44). -/
theorem writeStatus_legal (h : s.Legal) (hrst : s.rst = false) (v : Word) : (s.writeStatus v).Legal := by
  rw [writeStatus_eq]
  refine h.congr rfl rfl rfl rfl (fun w a hbusy => ?_) (released_rstHeld hrst)
  obtain ⟨hcmd, hdone, hcode⟩ := h.busyClean w a hbusy
  exact ⟨hcmd, by simp [hdone], hcode⟩

/-- CMD launches a clean command, or only records the drop (R45). -/
theorem writeCmd_legal (h : s.Legal) (hrst : s.rst = false) (w : Word) : (s.writeCmd w).Legal := by
  cases hseq : s.seq with
  | idle =>
    rw [writeCmd_idle s w hseq]
    refine ⟨h.regs, h.ctxs, h.buf, Nat.zero_le _, fun w' a hbusy => ?_, released_rstHeld hrst⟩
    obtain ⟨rfl, -⟩ := Seq.busy.inj hbusy
    exact ⟨rfl, rfl, rfl⟩
  | busy w' a =>
    rw [writeCmd_busy s w hseq]
    exact h.congr rfl rfl rfl rfl h.busyClean (released_rstHeld hrst)

theorem writeRegister_legal (h : s.Legal) (hrst : s.rst = false) (offset : Nat) (v : Word) :
    (s.writeRegister offset v).Legal := by
  unfold State.writeRegister
  split
  case h_1 => exact writeCtrl_legal h hrst v
  case h_2 => exact writeStatus_legal h hrst v
  case h_3 => exact writeCmd_legal h hrst v
  case h_9 => exact h
  all_goals exact h.congr rfl rfl rfl rfl h.busyClean (released_rstHeld hrst)

/-- No register write reaches the reset input (R550). -/
theorem writeRegister_rst (s : State) (offset : Nat) (v : Word) :
    (s.writeRegister offset v).rst = s.rst := by
  unfold State.writeRegister
  split
  case h_1 =>
    unfold State.writeCtrl
    split <;> rfl
  case h_2 => rw [writeStatus_eq]
  case h_3 =>
    unfold State.writeCmd
    split <;> rfl
  all_goals rfl

theorem hostAccess_legal (h : s.Legal) (hrst : s.rst = false) {a : Access}
    (ht : s.hostAccess a = .next t) : t.Legal := by
  cases a with
  | read offset width =>
    obtain ⟨r, rfl⟩ := hostAccess_read_cases s ht
    exact h.answer hrst r
  | write offset width v =>
    rcases hostAccess_write_cases s ht with ⟨r, rfl⟩ | rfl | ⟨a, ha, rfl⟩
    · exact h.answer hrst r
    · exact (writeRegister_legal h hrst offset v).answer ((writeRegister_rst s offset v).trans hrst) .ack
    · have hbuf : Memory.wf (s.write a (toLE v.toNat width)).buf :=
        memWrite_wf _ h.buf (by rwa [toLE_length])
      have hwrite : (s.write a (toLE v.toNat width)).Legal :=
        ⟨h.regs, h.ctxs, hbuf, h.errcode, h.busyClean, released_rstHeld hrst⟩
      exact hwrite.answer hrst .ack

/-! ### Completions -/

/-- Every command keeps a legal state legal: what is new is in range and legal, and it ends idle. -/
theorem exec_legal (h : s.Legal) (hrst : s.rst = false) {i : Instr} (ht : exec i s = .next t) :
    t.Legal := by
  have runs : s.Runs (footprint s.latched i) (.next t) := ht ▸ exec_runs i s
  have hrst' : t.rst = false := by
    obtain ⟨-, -, -, hkeep, -⟩ := (exec_completesAs s i t ht).keeps
    exact hkeep.trans hrst
  have hcode := runs.errcode.1
  cases runs with
  | success hu =>
    refine ⟨fun j => ?_, fun k => ?_, hu.wf h.buf, hcode, idle_busyClean rfl, released_rstHeld hrst'⟩
    · rcases hu.regs j with hsame | ⟨-, hfits⟩
      · exact hsame ▸ h.regs j
      · exact hfits
    · rcases hu.ctxs k with hsame | ⟨-, hlegal⟩
      · exact hsame ▸ h.ctxs k
      · exact hlegal (h.ctxs k)
  | error => exact ⟨h.regs, h.ctxs, h.buf, hcode, idle_busyClean rfl, released_rstHeld hrst'⟩

theorem completion_legal (h : s.Legal) (hrst : s.rst = false) (ht : s.completion = .next t) :
    t.Legal := by
  unfold State.completion at ht
  split at ht
  · exact Host.Outcome.next.inj ht ▸ h
  · split at ht
    · exact exec_legal h hrst ht
    · obtain rfl := Host.Outcome.next.inj ht
      exact ⟨h.regs, h.ctxs, h.buf, code_le _, idle_busyClean rfl, released_rstHeld hrst⟩

/-! ### Every step -/

theorem serve_legal (h : s.Legal) (hrst : s.rst = false) {e : Event} (ht : s.serve e = .next t) :
    t.Legal := by
  cases e with
  | access a => exact hostAccess_legal h hrst ht
  | complete => exact completion_legal h hrst ht
  | rstAssert => exact Host.Outcome.next.inj ht ▸ assertRst_legal s
  | rstRelease => exact Host.Outcome.next.inj ht ▸ h

/-- Settles O3, by the level of `rst` and the next event. -/
theorem everyStepKeepsStatesLegal : Obligations.EveryStepKeepsStatesLegal := by
  intro s t h ht
  unfold step State.advance at ht
  split at ht
  case isTrue => exact Host.Outcome.next.inj ht ▸ stepInReset_legal h
  case isFalse hrst =>
    have hrst : s.rst = false := Bool.eq_false_iff.mpr hrst
    split at ht
    case h_1 => exact completion_legal h hrst ht
    case h_2 e es _ => exact serve_legal (h.setEvents es) hrst ht

end Sys2Proof.Machine
end

section
/-! PROOFS. The command word (30_encoding.md): decoding inverts encoding on well-formed instructions, and a word
that decodes is the encoding of its instruction. -/

namespace Sys2Proof

/-! ### The operands as fields -/

@[simp] theorem regOf_ixField (r : Reg) : regOf (ixField r) = r := by
  revert r; decide

@[simp] theorem ixField_regOf (x : BitVec 4) : ixField (regOf x) = x := by
  revert x; decide

@[simp] theorem ctxOf_ixField (k : CtxIx) : ctxOf (ixField k) = .ok k := by
  revert k; decide

@[simp] theorem modeOf_modeField (m : Mode) : modeOf (modeField m) = .ok m := by
  cases m <;> rfl

@[simp] theorem flagBit_zero (b : Bool) : (flagBit b)[0] = b := by cases b <;> rfl

@[simp] theorem flagBit_one (b : Bool) : (flagBit b)[1] = false := by cases b <;> rfl

/-- The immediate of AESLEN: the direction in bit 0, the first chunk in bit 1 (R154). -/
def aeslenImm (dir : Dir) (first : Bool) : BitVec 32 :=
  (if dir = .dec then 1 else 0) ||| (if first then 2 else 0)

theorem dirOf_aeslenImm (dir : Dir) (first : Bool) : dirOf ((aeslenImm dir first).getLsbD 0) = dir := by
  cases dir <;> cases first <;> rfl

theorem aeslenImm_first (dir : Dir) (first : Bool) : (aeslenImm dir first).getLsbD 1 = first := by
  cases dir <;> cases first <;> rfl

theorem ixField_inj {r r' : Reg} : ixField r = ixField r' ↔ r = r' :=
  ⟨fun h => by rw [← regOf_ixField r, h, regOf_ixField], congrArg _⟩

/-- PRIMEGEN's immediate: the bit count low, the rounds high (R154). -/
@[simp] theorem primegenImm_low (bits rounds : BitVec 16) :
    (rounds ++ bits : BitVec 32).extractLsb' 0 16 = bits := by
  exact BitVec.extractLsb'_append_eq_right

@[simp] theorem primegenImm_high (bits rounds : BitVec 16) :
    (rounds ++ bits : BitVec 32).extractLsb' 16 16 = rounds := by
  exact BitVec.extractLsb'_append_eq_left

/-! ### Decoding inverts encoding -/

open Laws in
/-- The fields of every instruction name a row and leave what it does not use at 0 (R155, R157). -/
theorem cleanFields : ∀ i : Instr, CleanFields.Statement i
  | .nop => CleanFields.nop
  | .bseti _ _ => CleanFields.bseti _ _
  | .bmov _ _ => CleanFields.bmov _ _
  | .bneg _ _ => CleanFields.bneg _ _
  | .badd _ _ _ => CleanFields.badd _ _ _
  | .bsub _ _ _ => CleanFields.bsub _ _ _
  | .bmul _ _ _ => CleanFields.bmul _ _ _
  | .bdivrem _ _ _ _ => CleanFields.bdivrem _ _ _ _
  | .bmod _ _ _ => CleanFields.bmod _ _ _
  | .bcmp _ _ => CleanFields.bcmp _ _
  | .bshl _ _ _ => CleanFields.bshl _ _ _
  | .bshr _ _ _ => CleanFields.bshr _ _ _
  | .bbitlen _ => CleanFields.bbitlen _
  | .bload _ _ _ => CleanFields.bload _ _ _
  | .bstore _ _ => CleanFields.bstore _ _
  | .bfromdec _ => CleanFields.bfromdec _
  | .btodec _ => CleanFields.btodec _
  | .bmodmul _ _ _ _ => CleanFields.bmodmul _ _ _ _
  | .bmodexp _ _ _ _ => CleanFields.bmodexp _ _ _ _
  | .bgcd _ _ _ => CleanFields.bgcd _ _ _
  | .bextgcd _ _ _ _ _ => CleanFields.bextgcd _ _ _ _ _
  | .bmodinv _ _ _ => CleanFields.bmodinv _ _ _
  | .qrtest _ _ => CleanFields.qrtest _ _
  | .sqrtmod _ _ _ => CleanFields.sqrtmod _ _ _
  | .randbits _ _ _ => CleanFields.randbits _ _ _
  | .randrange _ _ _ => CleanFields.randrange _ _ _
  | .randbytes _ => CleanFields.randbytes _
  | .mrtest _ _ _ => CleanFields.mrtest _ _ _
  | .primegen _ _ _ => CleanFields.primegen _ _ _
  | .aesblk _ _ => CleanFields.aesblk _ _
  | .aesencs _ _ _ => CleanFields.aesencs _ _ _
  | .aesencc _ => CleanFields.aesencc _
  | .aesdecs _ _ _ => CleanFields.aesdecs _ _ _
  | .aesdecc _ => CleanFields.aesdecc _
  | .aesclr _ => CleanFields.aesclr _
  | .aeslen _ _ _ => CleanFields.aeslen _ _ _

/-- The row an instruction's fields name reads the instruction back from them (R158, R159). -/
theorem assemble_fields {i : Instr} {op : Op} (hop : Op.ofCode i.fields.opc = some op)
    (hwf : i.wellFormed = true) : op.assemble i.fields = .ok i := by
  cases i with
  | bdivrem rd rd2 rs1 rs2 =>
    obtain rfl : Op.bdivrem = op := by simpa [Instr.fields, Op.bare] using hop
    have hne : rd ≠ rd2 := bne_iff_ne.mp hwf
    simp [Op.assemble, Instr.fields, ixField_inj, hne]
  | bextgcd rd rd2 rd3 rs1 rs2 =>
    obtain rfl : Op.bextgcd = op := by simpa [Instr.fields, Op.bare] using hop
    simp only [Instr.wellFormed, Bool.and_eq_true, bne_iff_ne] at hwf
    obtain ⟨⟨h12, h13⟩, h23⟩ := hwf
    simp [Op.assemble, Instr.fields, ixField_inj, h12, h13, h23]
  | aeslen mode dir first =>
    obtain rfl : Op.aeslen = op := by simpa [Instr.fields, Op.bare] using hop
    have hmode : modeOf (Instr.aeslen mode dir first).fields.fl = .ok mode := modeOf_modeField mode
    have himm : (Instr.aeslen mode dir first).fields.imm = aeslenImm dir first := rfl
    rw [Op.assemble, hmode, himm, dirOf_aeslenImm, aeslenImm_first]
    rfl
  | _ =>
    simp only [Instr.fields, Op.bare, ofCode_code, Option.some.injEq] at hop
    subst hop
    simp [Op.assemble, Instr.fields]

/-- Settles O7: the fields name a row, use no more than it does, and are read back by it. -/
theorem decodeOfEncodeGivesTheInstruction : Obligations.DecodeOfEncodeGivesTheInstruction := by
  intro i hwf
  obtain ⟨op, hop, hunused⟩ := cleanFields i
  rw [encode, decode_toWord, Fields.decode, hop]
  exact (if_pos hunused).trans (assemble_fields hop hwf)

/-! ### A decoded word is the encoding of its instruction

Bits that a row leaves at 0 are those the encoder writes as 0. -/

theorem ixField_of_ctxOf {x : BitVec 4} {k : CtxIx} (h : ctxOf x = .ok k) : ixField k = x := by
  revert x k; decide

theorem modeField_of_modeOf {fl : BitVec 4} {m : Mode} (h : modeOf fl = .ok m) (hclear : fl &&& 8#4 = 0#4) :
    modeField m = fl := by
  revert fl; cases m <;> decide

theorem flagBit_of_clear {fl : BitVec 4} (hclear : fl &&& 14#4 = 0#4) : flagBit fl[0] = fl := by
  revert fl; decide

theorem loadFlags_of_clear {fl : BitVec 4} (hclear : fl &&& 12#4 = 0#4) :
    flagBit fl[0] ||| flagBit fl[1] <<< 1 = fl := by
  revert fl; decide

theorem and_allFlags (fl : BitVec 4) : fl &&& 15#4 = 0#4 ↔ fl = 0#4 := by
  revert fl; decide

theorem and_allImm (imm : BitVec 32) : imm &&& 4294967295#32 = 0#32 ↔ imm = 0#32 := by
  rw [show imm &&& 4294967295#32 = imm from BitVec.and_allOnes]

theorem aeslenImm_ofNat : ∀ n < 4, aeslenImm (dirOf ((BitVec.ofNat 32 n).getLsbD 0))
    ((BitVec.ofNat 32 n).getLsbD 1) = BitVec.ofNat 32 n := by
  decide

/-- An immediate whose bits from 2 on are 0 is that of an AESLEN (R154). -/
theorem aeslenImm_of_clear {imm : BitVec 32} (hclear : imm &&& 4294967292#32 = 0#32) :
    aeslenImm (dirOf imm[0]) imm[1] = imm := by
  have hlow : imm = (imm &&& 4294967292#32) ||| (imm &&& 3#32) := by
    rw [← BitVec.and_or_distrib_left]
    exact BitVec.and_allOnes.symm
  have hsmall : imm.toNat < 4 := by
    rw [hlow, hclear, BitVec.zero_or, BitVec.toNat_and]
    exact Nat.and_lt_two_pow _ (n := 2) (by decide)
  simpa using aeslenImm_ofNat imm.toNat hsmall

theorem primegenImm_split (imm : BitVec 32) :
    (imm.extractLsb' 16 16 ++ imm.extractLsb' 0 16 : BitVec 32) = imm := by
  refine BitVec.eq_of_getLsbD_eq fun i hi => ?_
  refine (BitVec.getLsbD_append (x := imm.extractLsb' 16 16)).trans ?_
  split
  case isTrue hlow => simp [hlow]
  case isFalse hhigh =>
    have hsub : i - 16 < 16 := by omega
    have hadd : 16 + (i - 16) = i := by omega
    simp [hsub, hadd]

theorem bind_eq_ok_iff {ε α β : Type} {m : Except ε α} {k : α → Except ε β} {y : β} :
    m >>= k = .ok y ↔ ∃ x, m = .ok x ∧ k x = .ok y := by
  cases m with
  | error e => exact ⟨nofun, fun ⟨_, hm, _⟩ => nomatch hm⟩
  | ok x => exact ⟨fun h => ⟨x, rfl, h⟩, fun ⟨_, hm, h⟩ => Except.ok.inj hm ▸ h⟩

theorem ite_ok_iff {ε α : Type} {p : Prop} [Decidable p] {e : ε} {r : Except ε α} {y : α} :
    (if p then .error e else r) = .ok y ↔ ¬ p ∧ r = .ok y := by
  split <;> simp_all

theorem regOf_inj {x y : BitVec 4} : regOf x = regOf y ↔ x = y :=
  ⟨fun h => by rw [← ixField_regOf x, h, ixField_regOf], congrArg _⟩

/-- The row that reads an instruction from fields that use no more than it does is the one whose fields they
are, and its instruction is well formed (R155, R158, R159). -/
theorem fields_of_assemble {f : Fields} {op : Op} {i : Instr} (hopc : f.opc = op.code)
    (hunused : f.unusedZero op = true) (h : op.assemble f = .ok i) :
    i.wellFormed = true ∧ i.fields = f := by
  obtain ⟨opc, rd, rs1, rs2, rs3, rd2, fl, imm⟩ := f
  obtain rfl : opc = op.code := hopc
  simp only [Fields.unusedZero, Op.format, Format.uses, Op.flReserved, Op.immReserved] at hunused
  cases op with
  | bdivrem =>
    obtain ⟨hne, h⟩ := ite_ok_iff.mp h
    obtain rfl := Except.ok.inj h
    simp_all [Instr.fields, Instr.wellFormed, Op.bare, regOf_inj, and_allFlags, and_allImm]
  | bextgcd =>
    obtain ⟨hne, h⟩ := ite_ok_iff.mp h
    obtain rfl := Except.ok.inj h
    simp_all [Instr.fields, Instr.wellFormed, Op.bare, regOf_inj, and_allFlags, and_allImm]
  | aesencs | aesdecs =>
    obtain ⟨k, hk, h⟩ := bind_eq_ok_iff.mp h
    obtain ⟨mode, hmode, h⟩ := bind_eq_ok_iff.mp h
    obtain rfl := Except.ok.inj h
    simp_all [Instr.fields, Instr.wellFormed, Op.bare, ixField_of_ctxOf hk, modeField_of_modeOf hmode]
  | aesencc | aesdecc | aesclr =>
    obtain ⟨k, hk, h⟩ := bind_eq_ok_iff.mp h
    obtain rfl := Except.ok.inj h
    simp_all [Instr.fields, Instr.wellFormed, Op.bare, ixField_of_ctxOf hk, and_allFlags, and_allImm]
  | aeslen =>
    obtain ⟨mode, hmode, h⟩ := bind_eq_ok_iff.mp h
    obtain rfl := Except.ok.inj h
    have himm := aeslenImm_of_clear (imm := imm)
    simp_all [Instr.fields, Instr.wellFormed, Op.bare, modeField_of_modeOf hmode, aeslenImm]
  | _ =>
    obtain rfl := Except.ok.inj h
    simp_all [Instr.fields, Instr.wellFormed, Op.bare, flagBit_of_clear, loadFlags_of_clear, primegenImm_split,
      and_allFlags, and_allImm]

/-- Settles O8: the row of a word that decodes has the word's fields. -/
theorem encodeOfDecodeGivesTheWord : Obligations.EncodeOfDecodeGivesTheWord := by
  intro w i h
  rw [decode, Fields.decode] at h
  split at h
  case h_1 => cases h
  case h_2 op hop =>
    split at h
    case isTrue hunused =>
      obtain ⟨hwf, hfields⟩ := fields_of_assemble (code_of_ofCode hop).symm hunused h
      exact ⟨hwf, by rw [encode, hfields, toWord_ofWord]⟩
    case isFalse => cases h

/-- Settles O9: the decoder evaluates to the instructions the rules name. -/
theorem writtenOutWordsDecode : Obligations.WrittenOutWordsDecode := by
  unfold Obligations.WrittenOutWordsDecode
  decide

end Sys2Proof
end

section
/-! PROOFS. The sequencer and the total order of events (R36, R37, R117, R550): what a step does with the event
that is next, and what a reset leaves of a running command. -/

namespace Sys2Proof.Machine

variable {s : State}

/-! ### The event that is next -/

/-- With `rst` released and nothing listed, a step is the completion step (R571). -/
theorem step_empty (hrst : s.rst = false) (hevents : s.events = []) : step s = s.completion := by
  simp only [step, State.advance, hrst, hevents, Bool.false_eq_true, if_false]

/-- With `rst` released a step serves the event that is next, taken off the list (R117). -/
theorem step_next (hrst : s.rst = false) {e : Event} {es : List Event} (hevents : s.events = e :: es) :
    step s = ({ s with events := es } : State).serve e := by
  simp only [step, State.advance, hrst, hevents, Bool.false_eq_true, if_false]

/-- While `rst` is asserted a step serves nothing (R550, log 8). -/
theorem step_inReset (hrst : s.rst = true) : step s = .next s.stepInReset := by
  simp only [step, State.advance, hrst, if_true]

theorem completion_idle (hidle : s.seq = .idle) : s.completion = .next s := by
  simp only [State.completion, hidle]

/-- A running word that decodes is executed (R37). -/
theorem completion_decoded {w : Word} {a : Args} (hbusy : s.seq = .busy w a) {i : Instr}
    (h : decode w = .ok i) : s.completion = exec i s := by
  simp only [State.completion, hbusy, h]

theorem completion_illegal {w : Word} {a : Args} (hbusy : s.seq = .busy w a)
    (h : ∀ i, decode w ≠ .ok i) : s.completion = .next (s.ended 1) :=
  completion_undecodable hbusy fun hok => (isOk_iff_exists.mp hok).elim h

/-- Settles O4: both with and without a completion event, the step is the completion step. -/
theorem stepRunsTheDecodedCommand : Obligations.StepRunsTheDecodedCommand := by
  intro s w a hrst hbusy
  have next (es : List Event) : ({ s with events := es } : State).seq = .busy w a := hbusy
  refine ⟨fun i hi => ⟨fun hevents => ?_, fun es hevents => ?_⟩,
    fun hillegal => ⟨fun hevents => ?_, fun es hevents => ?_⟩⟩
  · rw [step_empty hrst hevents, completion_decoded hbusy hi]
  · exact (step_next hrst hevents).trans (completion_decoded (next es) hi)
  · rw [step_empty hrst hevents, completion_illegal hbusy hillegal]
  · exact (step_next hrst hevents).trans (completion_illegal (next es) hillegal)

/-! ### Steps while `rst` is asserted -/

/-- An access that is next waits where no release is listed (U26, log 8). -/
theorem stepInReset_access_waits {a : Access} {es : List Event} (hevents : s.events = .access a :: es)
    (h : .rstRelease ∉ es) : s.stepInReset = s := by
  have hnone : .rstRelease ∉ Event.access a :: es := by simpa using h
  rw [State.stepInReset, hevents]
  exact if_neg hnone

/-- A listed release is taken ahead of an access that is next (U26, log 8). -/
theorem stepInReset_access_released {a : Access} {es : List Event} (hevents : s.events = .access a :: es)
    (h : .rstRelease ∈ es) :
    s.stepInReset = { s with rst := false, events := .access a :: es.erase .rstRelease } := by
  have hlisted : .rstRelease ∈ Event.access a :: es := .tail _ h
  rw [State.stepInReset, hevents]
  exact if_pos hlisted

/-- Settles O5, by the level of `rst` and the event that is next. -/
theorem stepServesTheNextEvent : Obligations.StepServesTheNextEvent := by
  refine ⟨fun s es a hrst hevents => step_next hrst hevents, fun s es hrst hevents => step_next hrst hevents,
    fun s es hrst hevents => step_next hrst hevents,
    fun s es hrst hidle hevents => (step_next hrst hevents).trans (completion_idle hidle),
    fun s hrst hidle hevents => (step_empty hrst hevents).trans (completion_idle hidle),
    fun s es hrst => ?_⟩
  rw [step_inReset hrst]
  refine ⟨fun hevents => ?_, fun a hevents hnone => ?_, fun a hevents hlisted => ?_, fun hevents => ?_,
    fun hevents => ?_, fun hevents => ?_⟩
  · rw [State.stepInReset, hevents]; rfl
  · rw [stepInReset_access_waits hevents hnone]
  · rw [stepInReset_access_released hevents hlisted]
  · rw [State.stepInReset, hevents]
  · rw [State.stepInReset, hevents]
  · rw [State.stepInReset, hevents]

/-! ### Resets while a command runs -/

/-- Settles O6: both resets leave the idle sequencer of reset, which a completion event does not wake. -/
theorem resetAbandonsTheRunningCommand : Obligations.ResetAbandonsTheRunningCommand := by
  intro s w a _
  refine ⟨⟨s.assertRst, rfl, rfl, rfl, rfl, State.reset_reg, State.reset_ctx, fun _ => rfl,
    completion_idle (s := s.assertRst) rfl⟩, fun v hbit => ?_⟩
  exact ⟨s.softReset.answer .ack, hostAccess_write_ctrl_reset s hbit, rfl, rfl, rfl, softReset_reg s,
    softReset_ctx s, rfl, completion_idle (s := s.softReset.answer .ack) rfl⟩

end Sys2Proof.Machine
end

section
/-! PROOFS. Round trips through the conversions (40_bigint_basic.md section 5): a BSTORE or BTODEC without
error has written its whole text, and the importing command reads that text back. -/

namespace Sys2Proof.Machine

variable {s t : State}

/-! ### Bytes just written -/

/-- A range just written holds the bytes written to it (R104). -/
theorem holds_of_written (hwf : Memory.wf s.buf) (a : Nat) (bytes : List Byte) :
    (s.write a bytes).Holds a bytes := by
  intro i hi
  rw [State.write_buf, memGet_memWrite bytes hwf.1, if_pos ⟨Nat.le_add_right a i, by omega⟩,
    Nat.add_sub_cancel_left, List.getElem?_eq_getElem hi]

/-- `Holds` looks at the buffer only. -/
theorem State.Holds.congr {a : Nat} {bytes : List Byte} (h : s.Holds a bytes) (hbuf : t.buf = s.buf) :
    t.Holds a bytes := fun i hi => hbuf ▸ h i hi

/-! ### BSTORE and BLOAD -/

/-- A command that checks its output range and ends without an error has passed the checks. -/
theorem finish_storeChecks_success {needed : Nat} {k : Unit → State}
    (h : s.finish (s.storeChecks needed) k = .next t) (ht : t.errcode = 0) :
    (s.latched.arg0.toNat + s.latched.arg1.toNat ≤ 65536 ∧ needed ≤ s.latched.arg1.toNat) ∧ t = k () := by
  obtain ⟨u, hu, hk⟩ := finish_success h ht
  exact ⟨storeChecks_ok hu, hk⟩

/-- Importing what was exported gives the value, where the capacity covers it (R230, R231). -/
theorem importValue_exportBytes (le : Bool) {v : Int} {c : Nat} (hc : byteLen v.natAbs ≤ c) :
    importValue le (decide (v < 0)) (exportBytes le v c) = v := by
  have hmod : v.natAbs % 256 ^ c = v.natAbs := Nat.mod_eq_of_lt (byteLen_le_iff.mp hc)
  have hmag : (if le then (leValue (exportBytes le v c) : Int) else beValue (exportBytes le v c)) =
      v.natAbs := by
    cases le with
    | true => exact congrArg Nat.cast ((leValue_toLE _ _).trans hmod)
    | false => exact congrArg Nat.cast ((beValue_toBE _ _).trans hmod)
  simp only [importValue, hmag, decide_eq_true_eq]
  omega

/-- A command that writes a value in range to a register ends without an error, the value written (R200). -/
theorem complete_putReg_success (s : State) (rd : Reg) {v : Int} (hv : v.natAbs < 2 ^ 8192) :
    ∃ u, (.next (s.complete (s.putReg rd v)) : Host.Outcome State Fault Refusal) = .next u ∧
      u.errcode = 0 ∧ u.reg rd = v :=
  ⟨s.wroteReg rd v, complete_putReg_of_lt s hv, rfl,
    (State.reg_congr (s := s.setReg rd v) rfl rd).trans (State.reg_setReg_same s rd v)⟩

/-- BLOAD of exported bytes that its range holds (R230). -/
theorem execBload_exported {le : Bool} (rd : Reg) {v : Int} (hv : v.natAbs < 2 ^ 8192)
    (hrange : s.latched.arg0.toNat + s.latched.arg1.toNat ≤ 65536) (hne : s.latched.arg1.toNat ≠ 0)
    (hroom : byteLen v.natAbs ≤ s.latched.arg1.toNat)
    (hold : s.Holds s.latched.arg0.toNat (exportBytes le v s.latched.arg1.toNat)) :
    ∃ u, exec (.bload rd le (decide (v < 0))) s = .next u ∧ u.errcode = 0 ∧ u.reg rd = v := by
  obtain ⟨-, -, hread⟩ := finish_input s fun bytes =>
    s.complete (s.putReg rd (importValue le (decide (v < 0)) bytes))
  obtain ⟨u, hu, hend⟩ := complete_putReg_success s rd hv
  refine ⟨u, (hread _ hrange hne (exportBytes_length _ _ _) hold).trans ?_, hend⟩
  rw [importValue_exportBytes le hroom]
  exact hu

/-! ### BTODEC and BFROMDEC -/

/-- The decimal string of a value is its sign and digits, the digit 0 for 0 (R233). -/
theorem decimalString_eq_signedDigits (v : Int) : decimalString v =
    signedDigits (decide (v < 0)) (if v = 0 then [0] else (Nat.digits 10 v.natAbs).reverse) := by
  have hdigits : (if v = 0 then [0x30] else (Nat.digits 10 v.natAbs).reverse.map digitByte) =
      (if v = 0 then [0] else (Nat.digits 10 v.natAbs).reverse).map digitByte := by
    split <;> rfl
  have hsign : (if v < 0 then [0x2D] else []) = if decide (v < 0) then [(0x2D : Byte)] else [] := by
    simp only [decide_eq_true_eq]
  rw [decimalString_eq, signedDigits, ← hdigits, hsign]
  rfl

/-- The decimal string of a value parses to the value (R232, R233). -/
theorem parseDecimal_decimalString (v : Int) : parseDecimal (decimalString v) = some v := by
  rw [decimalString_eq_signedDigits]
  by_cases hzero : v = 0
  · subst hzero; rfl
  · have hdigits (d : Nat) (hd : d ∈ (Nat.digits 10 v.natAbs).reverse) : d < 10 :=
      Nat.digits_lt_base (by decide) (List.mem_reverse.mp hd)
    have hne : (Nat.digits 10 v.natAbs).reverse ≠ [] := by
      simpa [Nat.digits_eq_nil_iff_eq_zero] using hzero
    rw [if_neg hzero, parseDecimal_signedDigits _ hne hdigits, List.reverse_reverse, Nat.ofDigits_digits]
    simp only [decide_eq_true_eq, Option.some.injEq]
    omega

theorem decimalString_ne_nil (v : Int) : decimalString v ≠ [] := by
  intro hnil
  have hparse := parseDecimal_decimalString v
  rw [hnil] at hparse
  cases hparse

/-- BFROMDEC of a decimal string that its range holds (R232). -/
theorem execBfromdec_decimalString (rd : Reg) {v : Int} (hv : v.natAbs < 2 ^ 8192)
    (hrange : s.latched.arg0.toNat + s.latched.arg1.toNat ≤ 65536)
    (hlen : (decimalString v).length = s.latched.arg1.toNat)
    (hold : s.Holds s.latched.arg0.toNat (decimalString v)) :
    ∃ u, exec (.bfromdec rd) s = .next u ∧ u.errcode = 0 ∧ u.reg rd = v := by
  have hne : s.latched.arg1.toNat ≠ 0 := by
    rw [← hlen]
    exact mt List.length_eq_zero_iff.mp (decimalString_ne_nil v)
  obtain ⟨-, -, hread⟩ := finish_input s fun bytes =>
    s.complete ((parseDecimal bytes).elim (.error .parseError) (s.putReg rd))
  obtain ⟨u, hu, hend⟩ := complete_putReg_success s rd hv
  refine ⟨u, ?_, hend⟩
  rw [execBfromdec_eq, hread _ hrange hne hlen hold, parseDecimal_decimalString]
  exact hu

/-- Settles O35: the exported text stands at the source of the importing command, which reads it back. -/
theorem exportedValuesImportBack : Obligations.ExportedValuesImportBack := by
  refine ⟨fun s t rs1 rd le hwf hv hne hexec ht => ?_, fun s t rs1 rd w hwf hv hexec ht => ?_⟩
  · obtain ⟨⟨hrange, hroom⟩, rfl⟩ := finish_storeChecks_success hexec ht
    exact execBload_exported rd hv hrange (fun hzero => hne (BitVec.eq_of_toNat_eq hzero)) hroom
      ((holds_of_written hwf _ _).congr rfl)
  · obtain ⟨⟨hrange, hroom⟩, rfl⟩ := finish_storeChecks_success hexec ht
    have hlen : (natRes (decimalString (s.reg rs1)).length).toNat = (decimalString (s.reg rs1)).length :=
      Nat.mod_eq_of_lt (by omega)
    have hroom' : s.latched.arg0.toNat + (natRes (decimalString (s.reg rs1)).length).toNat ≤ 65536 := by
      omega
    exact execBfromdec_decimalString rd hv hroom' hlen.symm ((holds_of_written hwf _ _).congr rfl)

end Sys2Proof.Machine
end

section
/-! PROOFS. Extended Euclid (R304): the rows of the recurrence, the invariant of two neighbouring rows with its
alternating signs, the bounds on the coefficients, and BEXTGCD. -/

namespace Sys2Proof.Machine

/-! ### The rows of the recurrence -/

/-- One row of R304: a remainder `r` and the coefficients `u` of `|a|` and `v` of `|b|`. -/
structure EuclidRow where
  r : Int
  u : Int
  v : Int

/-- One run of the loop of R304 on two neighbouring rows. -/
def euclidStep (p : EuclidRow × EuclidRow) : EuclidRow × EuclidRow :=
  (p.2, { r := p.1.r - p.1.r / p.2.r * p.2.r
          u := p.1.u - p.1.r / p.2.r * p.2.u
          v := p.1.v - p.1.r / p.2.r * p.2.v })

/-- The new remainder. -/
theorem euclidStep_r (p : EuclidRow × EuclidRow) : (euclidStep p).2.r = p.1.r % p.2.r := by
  rw [Int.emod_def, mul_comm]; rfl

/-- Row `j` of the recurrence that starts with the rows `p`. -/
def euclidRow (p : EuclidRow × EuclidRow) (j : Nat) : EuclidRow := (euclidStep^[j] p).1

variable {p : EuclidRow × EuclidRow} {A B e : Int}

theorem euclidRow_succ (p : EuclidRow × EuclidRow) (j : Nat) :
    euclidRow p (j + 1) = (euclidStep^[j] p).2 := by
  rw [euclidRow, Function.iterate_succ_apply']; rfl

theorem euclidRow_step (p : EuclidRow × EuclidRow) (j : Nat) :
    euclidRow (euclidStep p) j = euclidRow p (j + 1) := by
  rw [euclidRow, euclidRow, Function.iterate_succ_apply]

/-- The recurrence of R304. -/
theorem euclidRow_add_two (p : EuclidRow × EuclidRow) (j : Nat) :
    euclidRow p (j + 2) = (euclidStep (euclidRow p j, euclidRow p (j + 1))).2 := by
  rw [euclidRow_succ p (j + 1), euclidRow_succ p j, Function.iterate_succ_apply']; rfl

/-- The recurrence stops at row `m`: the remainders up to it are not 0 and the next one is. -/
def EuclidEnds (p : EuclidRow × EuclidRow) (m : Nat) : Prop :=
  (∀ j < m, (euclidRow p (j + 1)).r ≠ 0) ∧ (euclidRow p (m + 1)).r = 0

/-- The loop of R304 stops, and gives the row it stops at. -/
theorem extLoop_eq_row (fuel : Nat) (p : EuclidRow × EuclidRow) (h0 : 0 ≤ p.1.r) (h1 : 0 ≤ p.2.r)
    (hfuel : p.2.r ≤ fuel) : ∃ m, EuclidEnds p m ∧
      extLoop fuel p.1.r p.2.r p.1.u p.2.u p.1.v p.2.v =
        ((euclidRow p m).r, (euclidRow p m).u, (euclidRow p m).v) := by
  induction fuel generalizing p with
  | zero =>
    have hzero : p.2.r = 0 := by omega
    exact ⟨0, ⟨nofun, hzero⟩, rfl⟩
  | succ fuel ih =>
    rw [extLoop]
    split
    case isTrue hzero => exact ⟨0, ⟨nofun, hzero⟩, rfl⟩
    case isFalse hne =>
      have hnonneg : 0 ≤ (euclidStep p).2.r := euclidStep_r p ▸ Int.emod_nonneg _ hne
      have hlt : (euclidStep p).2.r < p.2.r := euclidStep_r p ▸ Int.emod_lt_of_pos _ (by omega)
      obtain ⟨m, ⟨hrows, hend⟩, hloop⟩ := ih (euclidStep p) h1 hnonneg (by omega)
      refine ⟨m + 1, ⟨fun j hj => ?_, euclidRow_step p (m + 1) ▸ hend⟩, ?_⟩
      · cases j with
        | zero => exact hne
        | succ j => exact euclidRow_step p (j + 1) ▸ hrows j (by omega)
      · rw [← euclidRow_step p m, ← hloop, Int.fdiv_eq_ediv_of_nonneg _ h1]
        rfl

/-! ### The invariant -/

/-- Two neighbouring rows of the recurrence on `A` and `B`, `e` being 1 before an even and -1 before an odd
row: the coefficients alternate in sign, both rows lie on the line of Bézout's identity, and the cross
differences with the remainders stay `B` and `A`, which bounds the coefficients. -/
structure EuclidInv (A B e : Int) (p : EuclidRow × EuclidRow) : Prop where
  sign : e = 1 ∨ e = -1
  r0 : 0 ≤ p.1.r
  r1 : 0 ≤ p.2.r
  u0 : 0 ≤ e * p.1.u
  u1 : e * p.2.u ≤ 0
  v0 : e * p.1.v ≤ 0
  v1 : 0 ≤ e * p.2.v
  crossU : p.2.r * (e * p.1.u) - p.1.r * (e * p.2.u) = B
  crossV : p.1.r * (e * p.2.v) - p.2.r * (e * p.1.v) = A
  line0 : A * p.1.u + B * p.1.v = p.1.r
  line1 : A * p.2.u + B * p.2.v = p.2.r
  gcd : p.1.r.gcd p.2.r = A.gcd B
  small : |p.1.u| ≤ max 1 B ∧ |p.1.v| ≤ max 1 A
  start : p.1.r = 0 → p.2.u = 0 ∧ p.2.v = 1

theorem abs_eq_of_sign {e x : Int} (he : e = 1 ∨ e = -1) : |x| = |e * x| := by
  rcases he with rfl | rfl <;> simp

/-- The second row's coefficients are as small as the first's (R304). -/
theorem EuclidInv.small_next (h : EuclidInv A B e p) :
    |p.2.u| ≤ max 1 B ∧ |p.2.v| ≤ max 1 A := by
  rcases h.r0.eq_or_lt with hzero | hpos
  · obtain ⟨hu, hv⟩ := h.start hzero.symm
    rw [hu, hv]
    exact ⟨by simp, by simp⟩
  · have hU : p.1.r * -(e * p.2.u) ≤ B := by
      have := mul_nonneg h.r1 h.u0
      linarith [h.crossU]
    have hV : p.1.r * (e * p.2.v) ≤ A := by
      have := mul_nonneg h.r1 (neg_nonneg.mpr h.v0)
      linarith [h.crossV]
    have hu : -(e * p.2.u) ≤ B :=
      (le_mul_of_one_le_left (neg_nonneg.mpr h.u1) hpos).trans hU
    have hv : e * p.2.v ≤ A := (le_mul_of_one_le_left h.v1 hpos).trans hV
    rw [abs_eq_of_sign h.sign, abs_of_nonpos h.u1, abs_eq_of_sign h.sign (x := p.2.v), abs_of_nonneg h.v1]
    exact ⟨hu.trans (le_max_right 1 B), hv.trans (le_max_right 1 A)⟩

/-- A run of the loop keeps the invariant, the sign turned (R304). -/
theorem EuclidInv.step (h : EuclidInv A B e p) (hne : p.2.r ≠ 0) : EuclidInv A B (-e) (euclidStep p) := by
  have hq : 0 ≤ p.1.r / p.2.r := Int.ediv_nonneg h.r0 h.r1
  have hqu := mul_nonneg hq (neg_nonneg.mpr h.u1)
  have hqv := mul_nonneg hq h.v1
  exact {
    sign := by rcases h.sign with rfl | rfl <;> simp
    r0 := h.r1
    r1 := euclidStep_r p ▸ Int.emod_nonneg _ hne
    u0 := by simpa [euclidStep] using h.u1
    u1 := by have := h.u0; simp only [euclidStep]; nlinarith
    v0 := by simpa [euclidStep] using h.v1
    v1 := by have := h.v0; simp only [euclidStep]; nlinarith
    crossU := by simp only [euclidStep]; linear_combination h.crossU
    crossV := by simp only [euclidStep]; linear_combination h.crossV
    line0 := h.line1
    line1 := by simp only [euclidStep]; linear_combination h.line0 - p.1.r / p.2.r * h.line1
    gcd := by
      rw [← h.gcd, Int.gcd_comm p.1.r]
      exact Int.gcd_sub_mul_right_right _ _ _
    small := h.small_next
    start := fun hzero => absurd hzero hne }

/-- The invariant holds up to the row the recurrence stops at. -/
theorem EuclidInv.rows {m : Nat} (h : EuclidInv A B e p)
    (hm : ∀ j < m, (euclidRow p (j + 1)).r ≠ 0) :
    ∃ e', EuclidInv A B e' (euclidRow p m, euclidRow p (m + 1)) := by
  induction m with
  | zero => exact ⟨e, h⟩
  | succ m ih =>
    obtain ⟨e', h'⟩ := ih fun j hj => hm j (by omega)
    have hstep := h'.step (hm m (by omega))
    refine ⟨-e', ?_⟩
    rwa [euclidRow_add_two]

/-- The first two rows (R304). -/
def euclidStart (a b : Int) : EuclidRow × EuclidRow := (⟨|a|, 1, 0⟩, ⟨|b|, 0, 1⟩)

theorem euclidStart_inv (a b : Int) : EuclidInv |a| |b| 1 (euclidStart a b) where
  sign := .inl rfl
  r0 := abs_nonneg a
  r1 := abs_nonneg b
  u0 := by simp [euclidStart]
  u1 := by simp [euclidStart]
  v0 := by simp [euclidStart]
  v1 := by simp [euclidStart]
  crossU := by simp [euclidStart]
  crossV := by simp [euclidStart]
  line0 := by simp [euclidStart]
  line1 := by simp [euclidStart]
  gcd := rfl
  small := by simp [euclidStart]
  start := fun _ => ⟨rfl, rfl⟩

/-- The corner cases of R304: with `b` zero the loop does not run, with `a` zero it runs once. -/
theorem euclidEnds_of_b_zero {a : Int} {m : Nat} (h : EuclidEnds (euclidStart a 0) m) : m = 0 := by
  by_contra hm
  exact h.1 0 (Nat.pos_of_ne_zero hm) (by simp [euclidRow, euclidStart, euclidStep])

theorem euclidEnds_of_a_zero {b : Int} (hb : b ≠ 0) {m : Nat} (h : EuclidEnds (euclidStart 0 b) m) : m = 1 := by
  obtain ⟨hrows, hend⟩ := h
  have hrow2 : (euclidRow (euclidStart 0 b) 2).r = 0 := by
    simp [euclidRow, euclidStart, euclidStep]
  match m with
  | 0 => exact absurd hend (by simpa [euclidRow, euclidStart, euclidStep] using hb)
  | 1 => rfl
  | m + 2 => exact absurd hrow2 (hrows 1 (by omega))

/-! ### BEXTGCD -/

variable (s : State)

theorem sgn_mul_self (a : Int) : a * sgn a = |a| := by
  unfold sgn
  split
  case isTrue h => rw [abs_of_neg h, mul_neg_one]
  case isFalse h => rw [abs_of_nonneg (not_lt.mp h), mul_one]

theorem abs_sgn_mul (a x : Int) : |sgn a * x| = |x| := by
  unfold sgn
  split <;> simp

/-- Extended Euclid gives the row its recurrence stops at, the signs of the operands put back (R304). -/
theorem extGcd_eq_row (a b : Int) : ∃ m, EuclidEnds (euclidStart a b) m ∧
    extGcd a b = ((euclidRow (euclidStart a b) m).r, sgn a * (euclidRow (euclidStart a b) m).u,
      sgn b * (euclidRow (euclidStart a b) m).v) := by
  obtain ⟨m, hm, hloop⟩ := extLoop_eq_row b.natAbs (euclidStart a b) (abs_nonneg a) (abs_nonneg b)
    (Int.natCast_natAbs b).ge
  refine ⟨m, hm, ?_⟩
  rw [extGcd, Int.natCast_natAbs, Int.natCast_natAbs]
  exact congrArg (fun row : Int × Int × Int => (row.1, sgn a * row.2.1, sgn b * row.2.2)) hloop

/-- Three values that fit are written, the results cleared (R200, R304). -/
theorem execBextgcd_eq {rd rd2 rd3 rs1 rs2 : Reg} {g x y : Int}
    (h : extGcd (s.reg rs1) (s.reg rs2) = (g, x, y)) (hg : g.natAbs < 2 ^ 8192) (hx : x.natAbs < 2 ^ 8192)
    (hy : y.natAbs < 2 ^ 8192) :
    exec (.bextgcd rd rd2 rd3 rs1 rs2) s = .next (({ s with
      regs := ((s.regs.set rd g).set rd2 x).set rd3 y, res0 := 0, res1 := 0 } : State).ended 0) := by
  rw [← cap_eq] at hg hx hy
  simp only [exec, execBextgcd, h, writeReg_ok _ hg, writeReg_ok _ hx, writeReg_ok _ hy, except_ok_bind,
    complete_ok]
  rfl

/-- A coefficient no larger than an operand in range, or 1, fits (R304). -/
theorem natAbs_lt_of_abs_le {x c : Int} {n : Nat} (hx : |x| ≤ max 1 |c|) (hc : c.natAbs < 2 ^ n) (hn : n ≠ 0) :
    x.natAbs < 2 ^ n := by
  have hone : 1 < 2 ^ n := Nat.one_lt_two_pow hn
  rw [← Int.natCast_natAbs, ← Int.natCast_natAbs] at hx
  omega

/-- Settles O39: the recurrence, its invariant at the last row, and the three values it fixes. -/
theorem bextgcdGivesBezoutCoefficients : Obligations.BextgcdGivesBezoutCoefficients := by
  intro s rd rd2 rd3 rs1 rs2 _ _ _ ha hb a b
  obtain ⟨m, hends, hgcd⟩ := extGcd_eq_row a b
  have ⟨hrows, hend⟩ := hends
  obtain ⟨e, inv⟩ := (euclidStart_inv a b).rows hrows
  have hr : (euclidRow (euclidStart a b) m).r = (a.gcd b : Int) := by
    have hlast := inv.gcd
    rw [hend, Int.gcd_zero_right] at hlast
    rw [← Int.natAbs_of_nonneg inv.r0, hlast, Int.gcd, Int.natAbs_abs, Int.natAbs_abs]
    rfl
  refine ⟨m, fun j => (euclidRow (euclidStart a b) j).r, fun j => (euclidRow (euclidStart a b) j).u,
    fun j => (euclidRow (euclidStart a b) j).v, rfl, rfl, rfl, rfl, rfl, rfl, fun j hj => ?_, hend, ?_⟩
  · refine ⟨hrows j hj, ?_⟩
    simp only [euclidRow_add_two]
    exact ⟨rfl, rfl, rfl⟩
  · intro x y
    have hx : |x| ≤ max 1 |b| := (abs_sgn_mul a _).le.trans inv.small.1
    have hy : |y| ≤ max 1 |a| := (abs_sgn_mul b _).le.trans inv.small.2
    refine ⟨hr, ?_, hx, hy, fun hb0 => ?_, fun ha0 hb0 => ?_, ?_⟩
    · have hline := inv.line0
      rw [← sgn_mul_self a, ← sgn_mul_self b] at hline
      change a * (sgn a * (euclidRow (euclidStart a b) m).u) + b * (sgn b * (euclidRow (euclidStart a b) m).v)
        = (euclidRow (euclidStart a b) m).r
      linear_combination hline
    · have hm : m = 0 := euclidEnds_of_b_zero (hb0 ▸ hends)
      subst hm
      exact ⟨mul_one _, mul_zero _⟩
    · have hm : m = 1 := euclidEnds_of_a_zero hb0 (ha0 ▸ hends)
      subst hm
      exact ⟨mul_zero _, mul_one _⟩
    · refine execBextgcd_eq s hgcd ?_ (natAbs_lt_of_abs_le hx hb (by decide))
        (natAbs_lt_of_abs_le hy ha (by decide))
      change (euclidRow (euclidStart a b) m).r.natAbs < 2 ^ 8192
      rw [hr]
      exact natGcd_lt ha hb

end Sys2Proof.Machine
end

section
/-! PROOFS. Draws (10_state.md section 6) and the random commands (42_random_prime.md section 1): what a
draw reads from the supply, and RANDBITS, RANDRANGE and RANDBYTES for the draw taken. -/

namespace Sys2Proof.Machine

/-! ### The readings of a draw -/

theorem uniformOf_bounds {lo hi : Int} (h : lo ≤ hi) (r : Nat) :
    lo ≤ uniformOf r lo hi ∧ uniformOf r lo hi ≤ hi := by
  have hlow : 0 ≤ (r : Int) % (hi - lo + 1) := Int.emod_nonneg _ (by omega)
  have hhigh : (r : Int) % (hi - lo + 1) < hi - lo + 1 := Int.emod_lt_of_pos _ (by omega)
  exact ⟨by rw [uniformOf]; omega, by rw [uniformOf]; omega⟩

/-- The distance of a value from the lower bound is read as that value (R60). -/
theorem uniformOf_distance {lo hi v : Int} (hlo : lo ≤ v) (hhi : v ≤ hi) :
    uniformOf (v - lo).toNat lo hi = v := by
  rw [uniformOf, Int.toNat_of_nonneg (by omega), Int.emod_eq_of_lt (by omega) (by omega)]
  omega

/-- A number from which non-zero bytes are read: their digits in base 255, each byte less 1. -/
def nonzeroValue : List Byte → Nat
  | [] => 0
  | b :: bytes => (b.toNat - 1) + 255 * nonzeroValue bytes

theorem nonzeroBytesOf_nonzeroValue {bytes : List Byte} (h : ∀ b ∈ bytes, b ≠ 0) :
    nonzeroBytesOf (nonzeroValue bytes) bytes.length = bytes := by
  induction bytes with
  | nil => rfl
  | cons b bytes ih =>
    have hb : b.toNat ≠ 0 := fun h0 => h b (by simp) (BitVec.eq_of_toNat_eq h0)
    have hlt := b.isLt
    have hhead : BitVec.ofNat 8 (1 + (b.toNat - 1 + 255 * nonzeroValue bytes) % 255) = b :=
      BitVec.eq_of_toNat_eq (by rw [BitVec.toNat_ofNat]; omega)
    have htail : (b.toNat - 1 + 255 * nonzeroValue bytes) / 255 = nonzeroValue bytes := by omega
    rw [nonzeroValue, List.length_cons, nonzeroBytesOf, hhead, htail,
      ih fun c hc => h c (List.mem_cons_of_mem b hc)]

/-- Byte `i` of a non-zero draw is digit `i` of the number in base 255, plus 1. -/
theorem nonzeroBytesOf_getElem? (r n i : Nat) :
    (nonzeroBytesOf r n)[i]? = if i < n then some (BitVec.ofNat 8 (1 + r / 255 ^ i % 255)) else none := by
  induction n generalizing r i with
  | zero => simp [nonzeroBytesOf]
  | succ n ih =>
    cases i with
    | zero => simp [nonzeroBytesOf]
    | succ i => simp [nonzeroBytesOf, ih, Nat.div_div_eq_div_mul, Nat.pow_succ']

theorem nonzeroByte_ne_zero (d : Nat) : BitVec.ofNat 8 (1 + d % 255) ≠ 0 := by
  intro h
  have hvalue : (1 + d % 255) % 2 ^ 8 = 0 := (BitVec.toNat_ofNat _ _).symm.trans (congrArg BitVec.toNat h)
  omega

theorem ne_zero_of_mem_nonzeroBytesOf {r n : Nat} {b : Byte} (h : b ∈ nonzeroBytesOf r n) : b ≠ 0 := by
  obtain ⟨i, hi⟩ := List.mem_iff_getElem?.mp h
  rw [nonzeroBytesOf_getElem?] at hi
  split at hi
  · rw [← Option.some.inj hi]
    exact nonzeroByte_ne_zero _
  · cases hi

/-- Settles O43: each reading stays in its range, and its inverse names a number for every value. -/
theorem drawsCoverExactlyTheirRange : Obligations.DrawsCoverExactlyTheirRange :=
  ⟨fun _ _ h => ⟨uniformOf_bounds h, fun _ hlo hhi => ⟨_, uniformOf_distance hlo hhi⟩⟩,
    fun n => ⟨fun r => toLE_length r n, fun bytes hn => ⟨leValue bytes, hn ▸ toLE_leValue bytes⟩⟩,
    fun n => ⟨fun r => ⟨nonzeroBytesOf_length r n, fun _ => ne_zero_of_mem_nonzeroBytesOf⟩,
      fun bytes hn h => ⟨nonzeroValue bytes, hn ▸ nonzeroBytesOf_nonzeroValue h⟩⟩⟩

/-! ### A draw of the supply -/

variable {src : Source} {i r : Nat}

theorem draw_some (h : src i = some r) : draw src i = .ok r := by simp [draw, h]

theorem draw_none (h : src i = none) : draw src i = .error .functionFailed := by simp [draw, h]

theorem drawUniform_some (h : src i = some r) (lo hi : Int) :
    drawUniform src i lo hi = .ok (uniformOf r lo hi) := by simp [drawUniform, draw_some h]

theorem drawUniform_none (h : src i = none) (lo hi : Int) :
    drawUniform src i lo hi = .error .functionFailed := by simp [drawUniform, draw_none h]

/-! ### Values of an exact bit length -/

/-- The value with bit `n - 1` set and the bits below it read from `r` (R351, R355). -/
def topBitOf (n r : Nat) : Nat := 2 ^ (n - 1) + r % 2 ^ (n - 1)

theorem two_pow_le_topBitOf (n r : Nat) : 2 ^ (n - 1) ≤ topBitOf n r := Nat.le_add_right _ _

theorem topBitOf_lt {n : Nat} (hn : n ≠ 0) (r : Nat) : topBitOf n r < 2 ^ n := by
  have hlow : r % 2 ^ (n - 1) < 2 ^ (n - 1) := Nat.mod_lt _ (Nat.two_pow_pos _)
  have hsplit : 2 ^ n = 2 ^ (n - 1) + 2 ^ (n - 1) := by
    rw [← Nat.two_pow_succ, Nat.sub_add_cancel (Nat.one_le_iff_ne_zero.mpr hn)]
  rw [topBitOf]
  omega

theorem drawTopBit_some (h : src i = some r) (n : Nat) : drawTopBit src i n = .ok (topBitOf n r : Int) := by
  rw [drawTopBit, drawUniform_some h]
  simp [uniformOf, topBitOf]

theorem drawTopBit_none (h : src i = none) (n : Nat) : drawTopBit src i n = .error .functionFailed := by
  rw [drawTopBit, drawUniform_none h]

theorem lor_one_eq (v : Nat) : v ||| 1 = if v % 2 = 0 then v + 1 else v := by
  have hlow : (v ||| 1) % 2 = 1 := by simp [Nat.or_mod_two_eq_one]
  have hhigh : (v ||| 1) / 2 = v / 2 := by simp [Nat.or_div_two]
  split <;> omega

theorem orOne_natCast (v : Nat) : orOne (v : Int) = ((v ||| 1 : Nat) : Int) := by
  rw [lor_one_eq, orOne]
  split <;> split <;> omega

theorem lor_one_lt {v n : Nat} (hn : n ≠ 0) (h : v < 2 ^ n) : v ||| 1 < 2 ^ n :=
  Nat.or_lt_two_pow h (Nat.one_lt_two_pow hn)

/-- The bound of a register for a value of fewer bits (R200). -/
theorem natAbs_lt_of_bits {v n m : Nat} (h : v < 2 ^ n) (hn : n ≤ m) : (v : Int).natAbs < 2 ^ m :=
  h.trans_le (Nat.pow_le_pow_right two_pos hn)

/-! ### RANDBITS -/

variable (s : State)

theorem checkRandbits_odd_zero : checkRandbits 0 true = .error .domainError := rfl

theorem checkRandbits_large {n : Nat} (h : 8192 < n) (odd : Bool) :
    checkRandbits n odd = .error .capacityExceeded := by
  have hn : (n == 0) = false := beq_false_of_ne (by omega)
  have hlarge : decide (n ≤ 8192) = false := decide_eq_false (by omega)
  rw [checkRandbits, hn]
  exact congrArg (need · .capacityExceeded) hlarge

theorem checkRandbits_ok {n : Nat} (h : n ≤ 8192) {odd : Bool} (h0 : n = 0 → odd = false) :
    checkRandbits n odd = .ok () := by
  have hfirst : (!(n == 0 && odd)) = true := by
    by_cases hn : n = 0
    · simp [h0 hn]
    · simp [hn]
  have hsecond : decide (n ≤ 8192) = true := decide_eq_true h
  rw [checkRandbits, hfirst]
  exact congrArg (need · .capacityExceeded) hsecond

theorem randbitsDraws_few {n : Nat} (h : n < 2) : randbitsDraws n = 0 := if_neg (by omega)

theorem randbitsDraws_many {n : Nat} (h : 8192 < n) : randbitsDraws n = 0 :=
  if_neg fun hn => absurd (show n ≤ 8192 from hn.2) (by omega)

theorem randbitsDraws_one {n : Nat} (h2 : 2 ≤ n) (h : n ≤ 8192) : randbitsDraws n = 1 := if_pos ⟨h2, h⟩

/-- RANDBITS ends in the error of its checks (R351). -/
theorem execRandbits_error {rd : Reg} {odd : Bool} {imm : BitVec 32} {e : ErrCode}
    (hdraws : randbitsDraws imm.toNat = 0) (h : checkRandbits imm.toNat odd = .error e) :
    exec (.randbits rd odd imm) s = .next (s.ended e.code) := by
  simp only [exec, execRandbits, unsignedImm, hdraws, h, except_error_bind]
  rfl

/-- RANDBITS writes its value once the checks pass and a draw gives it (R351). -/
theorem execRandbits_value {rd : Reg} {odd : Bool} {imm : BitVec 32} {v : Int}
    (hcheck : checkRandbits imm.toNat odd = .ok ())
    (h : randbitsValue Config.source s.draws imm.toNat odd = .ok v) (hv : v.natAbs < 2 ^ 8192) :
    exec (.randbits rd odd imm) s = .next ((s.spend (randbitsDraws imm.toNat)).wroteReg rd v) := by
  simp only [exec, execRandbits, unsignedImm, hcheck, h, except_ok_bind]
  exact complete_putReg_of_lt _ hv

/-- RANDBITS ends in FunctionFailed where its draw fails (R61, R351). -/
theorem execRandbits_failed {rd : Reg} {odd : Bool} {imm : BitVec 32} {e : ErrCode}
    (hcheck : checkRandbits imm.toNat odd = .ok ())
    (h : randbitsValue Config.source s.draws imm.toNat odd = .error e) :
    exec (.randbits rd odd imm) s = .next ((s.spend (randbitsDraws imm.toNat)).ended e.code) := by
  simp only [exec, execRandbits, unsignedImm, hcheck, h, except_ok_bind, except_error_bind]
  rfl

theorem randbitsValue_some (h : src i = some r) {n : Nat} (hn : 2 ≤ n) (odd : Bool) :
    randbitsValue src i n odd = .ok ((if odd then topBitOf n r ||| 1 else topBitOf n r : Nat) : Int) := by
  rw [randbitsValue, if_neg (by omega), if_neg (by omega), drawTopBit_some h]
  cases odd with
  | true => exact congrArg _ (orOne_natCast _)
  | false => rfl

theorem randbitsValue_none (h : src i = none) {n : Nat} (hn : 2 ≤ n) (odd : Bool) :
    randbitsValue src i n odd = .error .functionFailed := by
  rw [randbitsValue, if_neg (by omega), if_neg (by omega), drawTopBit_none h]

/-- Settles O44: the checks in order, the two values without a draw, and the drawn bits below a forced one. -/
theorem randbitsForcesTheBitLength : Obligations.RandbitsForcesTheBitLength := by
  intro s rd odd imm n written
  refine ⟨fun h0 hodd => ?_, fun hlarge => ?_, fun h0 heven => ?_, fun h1 => ?_, fun h2 hn => ?_⟩
  · have hcheck : checkRandbits n odd = .error .domainError := by
      rw [h0, hodd]; exact checkRandbits_odd_zero
    exact execRandbits_error s (randbitsDraws_few (show n < 2 by omega)) hcheck
  · exact execRandbits_error s (randbitsDraws_many hlarge) (checkRandbits_large hlarge odd)
  · have hvalue : randbitsValue Config.source s.draws n odd = .ok 0 := if_pos h0
    rw [execRandbits_value s (checkRandbits_ok (by omega) fun _ => heven) hvalue (by positivity),
      randbitsDraws_few (show n < 2 by omega)]
    rfl
  · have hvalue : randbitsValue Config.source s.draws n odd = .ok 1 := by
      rw [randbitsValue, if_neg (by omega), if_pos h1]
    rw [execRandbits_value s (checkRandbits_ok (by omega) (by omega)) hvalue
      (natAbs_lt_of_bits (v := 1) (n := 1) (by decide) (by decide)), randbitsDraws_few (show n < 2 by omega)]
    rfl
  · have hcheck : checkRandbits n odd = .ok () := checkRandbits_ok hn (by omega)
    split
    case h_1 hnone =>
      rw [execRandbits_failed s hcheck (randbitsValue_none hnone h2 odd), randbitsDraws_one h2 hn]
      rfl
    case h_2 r hsome =>
      have hbound : (if odd then topBitOf n r ||| 1 else topBitOf n r) < 2 ^ n := by
        have hlt := topBitOf_lt (n := n) (by omega) r
        split
        · exact lor_one_lt (by omega) hlt
        · exact hlt
      rw [execRandbits_value s hcheck (randbitsValue_some hsome h2 odd) (natAbs_lt_of_bits hbound hn),
        randbitsDraws_one h2 hn]
      rfl

/-! ### RANDRANGE -/

theorem execRandrange_empty {rd rs1 rs2 : Reg} (h : s.reg rs2 < s.reg rs1) :
    exec (.randrange rd rs1 rs2) s = .next (s.ended 12) := by
  simp only [exec, execRandrange, if_neg (not_le.mpr h), decide_eq_false (not_le.mpr h), need_false,
    except_error_bind]
  rfl

theorem execRandrange_eq {rd rs1 rs2 : Reg} (h : s.reg rs1 ≤ s.reg rs2) :
    exec (.randrange rd rs1 rs2) s = .next ((s.spend 1).complete (do
      let v ← drawUniform Config.source s.draws (s.reg rs1) (s.reg rs2)
      (s.spend 1).putReg rd v)) := by
  simp only [exec, execRandrange, if_pos h, decide_eq_true h, need_true, except_ok_bind]

/-- Settles O45: a value between two registers in range is in range. -/
theorem randrangeDrawsFromItsInterval : Obligations.RandrangeDrawsFromItsInterval := by
  intro s rd rs1 rs2 hmin hmax
  refine ⟨execRandrange_empty s, fun h => ?_⟩
  rw [execRandrange_eq s h]
  split
  case h_1 hnone =>
    rw [drawUniform_none hnone, except_error_bind]
    rfl
  case h_2 r hsome =>
    have ⟨hlow, hhigh⟩ := uniformOf_bounds h r
    have hfits : (uniformOf r (s.reg rs1) (s.reg rs2)).natAbs < 2 ^ 8192 := by
      generalize 2 ^ 8192 = cap at hmin hmax ⊢
      omega
    rw [drawUniform_some hsome, except_ok_bind, complete_putReg_of_lt _ hfits]
    rfl

/-! ### RANDBYTES -/

/-- The bytes of RANDBYTES for a draw `r` (R353). -/
def randomBytesOf (nz : Bool) (r n : Nat) : List Byte := if nz then nonzeroBytesOf r n else bytesOf r n

theorem randomBytesOf_length (nz : Bool) (r n : Nat) : (randomBytesOf nz r n).length = n := by
  cases nz with
  | true => exact nonzeroBytesOf_length r n
  | false => exact toLE_length r n

theorem randomBytesOf_getElem? (nz : Bool) (r : Nat) {n i : Nat} (h : i < n) :
    (randomBytesOf nz r n)[i]? = some (if nz then BitVec.ofNat 8 (1 + r / 255 ^ i % 255)
      else BitVec.ofNat 8 (r / 256 ^ i)) := by
  cases nz with
  | true => exact (nonzeroBytesOf_getElem? r n i).trans (if_pos h)
  | false => exact (toLE_getElem? r n i).trans (if_pos h)

/-- On an invalid range RANDBYTES takes no draw (R103, R353). -/
theorem execRandbytes_outside {nz : Bool} (h : 65536 < s.latched.arg0.toNat + s.latched.arg1.toNat) :
    exec (.randbytes nz) s = .next (s.ended 10) := by
  have hrange : rangeOk s.latched.src s.latched.len = false :=
    Bool.eq_false_iff.mpr fun hok => absurd (rangeOk_iff.mp hok) (not_le.mpr h)
  simp only [exec, execRandbytes, randbytesDraws, hrange, need_false, except_error_bind, Bool.false_and,
    Bool.false_eq_true, if_false]
  rfl

theorem execRandbytes_inside {nz : Bool} (h : s.latched.arg0.toNat + s.latched.arg1.toNat ≤ 65536) :
    exec (.randbytes nz) s =
      let t := s.spend (if s.latched.len = 0 then 0 else 1)
      .next (t.complete (do
        let bytes ← randomBytes Config.source s.draws s.latched.len nz
        .ok ((t.write s.latched.src bytes).setRes 0 0))) := by
  have hrange : rangeOk s.latched.src s.latched.len = true := rangeOk_iff.mpr h
  simp only [exec, execRandbytes, randbytesDraws, hrange, need_true, except_ok_bind, Bool.true_and,
    bne_iff_ne, ite_not]

/-- Settles O46: the drawn bytes fill the range, and a memory write changes nothing else. -/
theorem randbytesFillsItsRange : Obligations.RandbytesFillsItsRange := by
  intro s nz hwf a n
  refine ⟨execRandbytes_outside s, fun h h0 => ?_, fun h hn => ?_⟩
  · have hbytes : randomBytes Config.source s.draws n nz = .ok [] := if_pos h0
    have hlen : s.latched.len = 0 := h0
    rw [execRandbytes_inside s h, if_pos hlen]
    exact congrArg (fun r => Host.Outcome.next (State.complete s (r >>= _))) hbytes
  · have hlen : ¬ s.latched.len = 0 := hn
    rw [execRandbytes_inside s h, if_neg hlen, randomBytes, if_neg hlen]
    refine ⟨_, rfl, ?_⟩
    split
    case h_1 hnone =>
      rw [draw_none hnone]
      rfl
    case h_2 r hsome =>
      rw [draw_some hsome]
      obtain ⟨hstate, hbuf⟩ := succeed_wrote (s.spend 1) hwf a (randomBytesOf_length nz r n) 0 0
      refine ⟨hstate, fun x => (hbuf x).trans ?_⟩
      split
      case isTrue hx => exact randomBytesOf_getElem? nz r (by omega)
      case isFalse => rfl

end Sys2Proof.Machine
end

section
/-! PROOFS. The Miller–Rabin verdict (42_random_prime.md section 2): what is decided without a draw, the
verdict over the draws taken, and MRTEST, also of a prime. -/

namespace Sys2Proof.Machine

/-! ### The verdict without a draw -/

variable {n : Int} {td : Bool}

theorem verdictWithoutDraw_small (h : n < 2) : verdictWithoutDraw n td = some false := if_pos h

theorem verdictWithoutDraw_two_three (h : n = 2 ∨ n = 3) : verdictWithoutDraw n td = some true := by
  rw [verdictWithoutDraw, if_neg (by omega), if_pos h]

theorem verdictWithoutDraw_even (h : 2 < n) (heven : n % 2 = 0) : verdictWithoutDraw n td = some false := by
  have hfmod : n.fmod 2 = 0 := by rw [Int.fmod_eq_emod_of_nonneg n (by decide), heven]
  rw [verdictWithoutDraw, if_neg (by omega), if_neg (by omega), if_pos hfmod]

/-- An odd number above 3 is left to trial division (R354). -/
theorem verdictWithoutDraw_odd (h : 3 < n) (hodd : n % 2 = 1) :
    verdictWithoutDraw n td = if td then trialDivide n trialPrimes else none := by
  have hfmod : ¬ n.fmod 2 = 0 := by rw [Int.fmod_eq_emod_of_nonneg n (by decide), hodd]; decide
  rw [verdictWithoutDraw, if_neg (by omega), if_neg (by omega), if_neg hfmod]

/-- Trial division stops at the first number of the list that divides, or at none (R354). -/
theorem trialDivide_cases (n : Int) (qs : List Nat) :
    (trialDivide n qs = none ∧ ∀ q ∈ qs, n % (q : Int) ≠ 0) ∨
    (trialDivide n qs = some true ∧ ∃ q ∈ qs, n = (q : Int)) ∨
    (trialDivide n qs = some false ∧ ∃ q ∈ qs, n % (q : Int) = 0 ∧ n ≠ (q : Int)) := by
  induction qs with
  | nil => exact .inl ⟨rfl, nofun⟩
  | cons q qs ih =>
    by_cases heq : n = (q : Int)
    · exact .inr (.inl ⟨if_pos heq, q, List.mem_cons_self, heq⟩)
    · by_cases hdvd : n % (q : Int) = 0
      · have hfmod : n.fmod (q : Int) = 0 := by rw [Int.fmod_eq_emod_of_nonneg n (by omega), hdvd]
        exact .inr (.inr ⟨by rw [trialDivide, if_neg heq, if_pos hfmod], q, List.mem_cons_self, hdvd, heq⟩)
      · have hfmod : ¬ n.fmod (q : Int) = 0 := by rwa [Int.fmod_eq_emod_of_nonneg n (by omega)]
        have hstep : trialDivide n (q :: qs) = trialDivide n qs := by
          rw [trialDivide, if_neg heq, if_neg hfmod]
        simp only [hstep, List.forall_mem_cons, List.exists_mem_cons_iff]
        rcases ih with ⟨h, hall⟩ | ⟨h, hsome⟩ | ⟨h, hsome⟩
        · exact .inl ⟨h, hdvd, hall⟩
        · exact .inr (.inl ⟨h, .inr hsome⟩)
        · exact .inr (.inr ⟨h, .inr hsome⟩)

/-- Where no trial prime divides, trial division leaves the verdict open (R354). -/
theorem trialDivide_none (h : ∀ q : Nat, q.Prime → 3 ≤ q → q < 1000 → n % q ≠ 0) :
    trialDivide n trialPrimes = none := by
  have hmem : ∀ q ∈ trialPrimes, n % (q : Int) ≠ 0 := fun q hq =>
    have ⟨h3, hlt, hprime⟩ := mem_trialPrimes.mp hq
    h q hprime h3 hlt
  rcases trialDivide_cases n trialPrimes with ⟨hnone, -⟩ | ⟨-, q, hq, heq⟩ | ⟨-, q, hq, hdvd, -⟩
  · exact hnone
  · exact absurd (heq ▸ Int.emod_self) (hmem q hq)
  · exact absurd hdvd (hmem q hq)

/-- A prime that divides decides the verdict: 1 for itself, 0 for every other multiple (R354). -/
theorem trialDivide_of_dvd {q : Nat} (hprime : q.Prime) (h3 : 3 ≤ q) (hlt : q < 1000) (hdvd : n % q = 0) :
    trialDivide n trialPrimes = some (decide (n = q)) := by
  rcases trialDivide_cases n trialPrimes with ⟨-, hall⟩ | ⟨h, r, hr, heq⟩ | ⟨h, r, hr, hrdvd, hne⟩
  · exact absurd hdvd (hall q (mem_trialPrimes.mpr ⟨h3, hlt, hprime⟩))
  · have hqr : q ∣ r := Int.natCast_dvd_natCast.mp (heq ▸ Int.dvd_of_emod_eq_zero hdvd)
    have hsame : q = r := (Nat.prime_dvd_prime_iff_eq hprime (mem_trialPrimes.mp hr).2.2).mp hqr
    rw [h, decide_eq_true (hsame ▸ heq)]
  · have hnq : n ≠ (q : Int) := fun heq => by
      have hrq : r ∣ q := Int.natCast_dvd_natCast.mp (heq ▸ Int.dvd_of_emod_eq_zero hrdvd)
      have hsame : r = q := (Nat.prime_dvd_prime_iff_eq (mem_trialPrimes.mp hr).2.2 hprime).mp hrq
      exact hne (hsame ▸ heq)
    rw [h, decide_eq_false hnq]

/-- No prime is called composite without a draw (R354). -/
theorem verdictWithoutDraw_prime {p : Nat} (hp : p.Prime) {v : Bool} (h : verdictWithoutDraw p td = some v) :
    v = true := by
  by_contra hv
  have htwo := hp.two_le
  unfold verdictWithoutDraw at h
  split_ifs at h with hsmall hbase heven htd
  · omega
  · exact hv (Option.some.inj h).symm
  · rw [Int.fmod_eq_emod_of_nonneg _ (by decide)] at heven
    have hodd := hp.eq_two_or_odd
    omega
  · rcases trialDivide_cases p trialPrimes with ⟨hnone, -⟩ | ⟨htrue, -⟩ | ⟨-, q, hq, hdvd, hne⟩
    · rw [hnone] at h; cases h
    · rw [htrue] at h; exact hv (Option.some.inj h).symm
    · have hqp : q ∣ p := Int.natCast_dvd_natCast.mp (Int.dvd_of_emod_eq_zero hdvd)
      exact hne (congrArg Nat.cast ((Nat.prime_dvd_prime_iff_eq (mem_trialPrimes.mp hq).2.2 hp).mp hqp).symm)

/-- What is left to the draws is odd and above 3 (R354). -/
theorem verdictWithoutDraw_none (h : verdictWithoutDraw n td = none) : 3 < n ∧ n % 2 = 1 := by
  unfold verdictWithoutDraw at h
  split_ifs at h with hsmall hbase heven htd <;>
  · rw [Int.fmod_eq_emod_of_nonneg n (by decide)] at heven
    omega

/-! ### The draws of a verdict -/

variable {src : Source} {lo hi : Int} {i k : Nat}

theorem drawMany_some {r : Nat → Nat} (h : ∀ j < k, src (i + j) = some (r j)) :
    drawMany src lo hi k i = .ok ((List.range k).map fun j => uniformOf (r j) lo hi) := by
  induction k generalizing i r with
  | zero => rfl
  | succ k ih =>
    have hrest : ∀ j < k, src (i + 1 + j) = some (r (j + 1)) := fun j hj => by
      rw [Nat.add_assoc, Nat.add_comm 1 j]
      exact h (j + 1) (Nat.succ_lt_succ hj)
    have hfirst : src i = some (r 0) := h 0 k.succ_pos
    rw [drawMany, drawUniform_some hfirst, ih hrest, List.range_succ_eq_map, List.map_cons,
      List.map_map]
    rfl

theorem drawMany_none (h : ∃ j < k, src (i + j) = none) :
    drawMany src lo hi k i = .error .functionFailed := by
  induction k generalizing i with
  | zero => obtain ⟨j, hj, -⟩ := h; cases hj
  | succ k ih =>
    rw [drawMany]
    rcases drawUniform_cases src i lo hi with ⟨r, hsome, e⟩ | ⟨-, e⟩ <;> rw [e]
    have hrest : ∃ j < k, src (i + 1 + j) = none := by
      obtain ⟨j, hj, hnone⟩ := h
      cases j with
      | zero => rw [Nat.add_zero, hsome] at hnone; cases hnone
      | succ j => exact ⟨j, by omega, by rw [← hnone]; congr 1; omega⟩
    simp only [ih hrest]

/-! ### Witnesses -/

/-- `a` is no witness for `n`, with `n - 1 = d * 2^e`: the chain of squares of `a^d` starts with 1 or
meets `-1` (R354). -/
def PassesBase (n : Int) (d e : Nat) (a : Int) : Prop :=
  a ^ d % n = 1 ∨ ∃ h < e, a ^ (d * 2 ^ h) % n = n - 1

theorem isWitness_eq_false_iff {d e : Nat} {a : Int} (hn : 0 < n) (he : e ≠ 0) :
    isWitness n d e a = false ↔ PassesBase n d e a := by
  have hsq : ∀ h, (a ^ d % n) ^ 2 ^ h % n = a ^ (d * 2 ^ h) % n := fun h => by
    rw [pow_mul]
    exact (Int.mod_modEq (a ^ d) n).pow (2 ^ h)
  have hchain : (∃ h < e, a ^ (d * 2 ^ h) % n = n - 1) ↔
      a ^ d % n = n - 1 ∨ ∃ h ∈ List.range' 1 (e - 1), a ^ (d * 2 ^ h) % n = n - 1 := by
    constructor
    · rintro ⟨h, hlt, hval⟩
      cases h with
      | zero => exact .inl (by simpa using hval)
      | succ h => exact .inr ⟨h + 1, List.mem_range'_1.mpr (by omega), hval⟩
    · rintro (hval | ⟨h, hmem, hval⟩)
      · exact ⟨0, by omega, by simpa using hval⟩
      · have := List.mem_range'_1.mp hmem
        exact ⟨h, by omega, hval⟩
  rw [PassesBase, hchain]
  simp [isWitness, hsq, modExp_eq hn, or_iff_not_imp_left]

/-- The odd part and the power of two of a number are unique. -/
theorem oddPart_unique {d e d' e' : Nat} (hd : d % 2 = 1) (hd' : d' % 2 = 1) (h : d * 2 ^ e = d' * 2 ^ e') :
    d = d' ∧ e = e' := by
  induction e generalizing e' with
  | zero =>
    cases e' with
    | zero => simpa using h
    | succ e' => rw [pow_zero, pow_succ, ← mul_assoc] at h; omega
  | succ e ih =>
    cases e' with
    | zero => rw [pow_zero, pow_succ, ← mul_assoc] at h; omega
    | succ e' =>
      rw [pow_succ, pow_succ, ← mul_assoc, ← mul_assoc] at h
      obtain ⟨hdd, hee⟩ := ih (Nat.eq_of_mul_eq_mul_right two_pos h)
      exact ⟨hdd, congrArg Nat.succ hee⟩

/-- The verdict over bases is 1 exactly if none is a witness (R354). -/
theorem verdictOver_iff {d e : Nat} (h3 : 3 < n) (hodd : n % 2 = 1) (hsplit : n - 1 = (d : Int) * 2 ^ e)
    (hd : d % 2 = 1) (as : List Int) : verdictOver n as = true ↔ ∀ a ∈ as, PassesBase n d e a := by
  have hnat : (n - 1).toNat = d * 2 ^ e := by rw [hsplit]; exact_mod_cast Int.toNat_natCast (d * 2 ^ e)
  have he : e ≠ 0 := by
    rintro rfl
    rw [pow_zero, mul_one] at hnat
    omega
  obtain ⟨hval, hpart⟩ := splitTwo_spec (n - 1).toNat (n - 1).toNat (by omega) le_rfl
  obtain ⟨hfst, hsnd⟩ := oddPart_unique hpart hd (hval.symm.trans hnat)
  simp only [verdictOver, hfst, hsnd, Bool.not_eq_true', List.any_eq_false, Bool.not_eq_true,
    isWitness_eq_false_iff (show 0 < n by omega) he]

/-! ### The verdict of R354 -/

theorem millerRabin_decided {v : Bool} (h : verdictWithoutDraw n td = some v) :
    millerRabin src i n k td = (.ok v, 0) := by simp only [millerRabin, h]

theorem millerRabin_drawn (h : verdictWithoutDraw n td = none) {r : Nat → Nat}
    (hr : ∀ j < k, src (i + j) = some (r j)) :
    millerRabin src i n k td =
      (.ok (verdictOver n ((List.range k).map fun j => uniformOf (r j) 2 (n - 2))), k) := by
  simp only [millerRabin, h, drawMany_some hr]

theorem millerRabin_failed (h : verdictWithoutDraw n td = none) (hfail : ∃ j < k, src (i + j) = none) :
    millerRabin src i n k td = (.error .functionFailed, k) := by
  simp only [millerRabin, h, drawMany_none hfail]

/-- The supply answers every consultation of a range, or one of them fails. -/
theorem supply_cases (src : Source) (i k : Nat) :
    (∃ r : Nat → Nat, ∀ j < k, src (i + j) = some (r j)) ∨ ∃ j < k, src (i + j) = none := by
  by_cases h : ∃ j < k, src (i + j) = none
  · exact .inr h
  · refine .inl ⟨fun j => (src (i + j)).getD 0, fun j hj => ?_⟩
    obtain ⟨r, hr⟩ := Option.ne_none_iff_exists'.mp fun hnone => h ⟨j, hj, hnone⟩
    simp only [hr, Option.getD_some]

/-! ### MRTEST -/

variable (s : State)

theorem execMrtest_eq (rs1 : Reg) (td : Bool) (k : BitVec 32) : exec (.mrtest rs1 td k) s =
    let m := millerRabin Config.source s.draws (s.reg rs1) (roundCount k.toNat) td
    .next (match m.1 with
      | .ok v => ({ s with
          res0 := if v then 1 else 0, res1 := 0, draws := s.draws + m.2 } : State).ended 0
      | .error e => ({ s with draws := s.draws + m.2 } : State).ended e.code) := by
  simp only [exec, execMrtest, unsignedImm]
  cases (millerRabin Config.source s.draws (s.reg rs1) (roundCount k.toNat) td).1 with
  | ok v => cases v <;> rfl
  | error e => rfl

theorem execMrtest_decided {rs1 : Reg} {td v : Bool} (h : verdictWithoutDraw (s.reg rs1) td = some v)
    (k : BitVec 32) : exec (.mrtest rs1 td k) s =
      .next (({ s with res0 := if v then 1 else 0, res1 := 0 } : State).ended 0) := by
  rw [execMrtest_eq, millerRabin_decided h]
  rfl

/-- Settles O47: the cases decided without a draw, the verdict over the draws, and the command. -/
theorem mrtestDecidesOverAllDraws : Obligations.MrtestDecidesOverAllDraws := by
  refine ⟨?_, ?_, fun s rs1 td k => execMrtest_eq s rs1 td k⟩
  · intro s rs1 td k n verdict
    refine ⟨fun h => execMrtest_decided s (verdictWithoutDraw_small h) k,
      fun h => execMrtest_decided s (verdictWithoutDraw_two_three h) k,
      fun h heven => execMrtest_decided s (verdictWithoutDraw_even h heven) k,
      fun q h hodd htd hprime hq hlt hdvd => ?_⟩
    have hverdict : verdictWithoutDraw n td = some (decide (n = q)) := by
      rw [verdictWithoutDraw_odd h hodd, if_pos htd, trialDivide_of_dvd hprime hq hlt hdvd]
    rw [execMrtest_decided s hverdict k]
    simp only [decide_eq_true_eq, verdict]
  · intro src i k d e n td r h3 hodd htrial hsplit hd
    have hopen : verdictWithoutDraw n td = none := by
      rw [verdictWithoutDraw_odd h3 hodd]
      split
      case isTrue htd => exact trialDivide_none (htrial htd)
      case isFalse => rfl
    refine ⟨fun hr => ⟨_, millerRabin_drawn hopen hr, ?_⟩, millerRabin_failed hopen⟩
    have hdraw : ∀ j, uniformOf (r j) 2 (n - 2) = 2 + (r j : Int) % (n - 3) := fun j => by
      rw [uniformOf]
      congr 2
      ring
    simp only [verdictOver_iff h3 hodd hsplit hd, List.forall_mem_map, List.mem_range, hdraw, PassesBase]

/-! ### Primes pass -/

/-- In a ring without zero divisors a chain of squares that ends in 1 starts with 1 or meets `-1`. -/
theorem one_or_neg_one_of_pow_eq_one {R : Type} [CommRing R] [NoZeroDivisors R] (x : R) (d e : Nat)
    (h : x ^ (d * 2 ^ e) = 1) : x ^ d = 1 ∨ ∃ h < e, x ^ (d * 2 ^ h) = -1 := by
  induction e with
  | zero => exact .inl (by simpa using h)
  | succ e ih =>
    have hsq : x ^ (d * 2 ^ e) * x ^ (d * 2 ^ e) = 1 := by rw [← pow_add, ← mul_two, mul_assoc, ← pow_succ, h]
    rcases mul_self_eq_one_iff.mp hsq with hone | hneg
    · rcases ih hone with hd | ⟨h, hlt, hval⟩
      · exact .inl hd
      · exact .inr ⟨h, by omega, hval⟩
    · exact .inr ⟨e, by omega, hneg⟩

/-- No base between 2 and `p - 2` is a witness for a prime `p` (Fermat, and `x² = 1` has two roots). -/
theorem passesBase_of_prime (p : Nat) [Fact p.Prime] {d e : Nat} (hsplit : p - 1 = d * 2 ^ e) {a : Int}
    (hlo : 2 ≤ a) (hhi : a ≤ p - 2) : PassesBase p d e a := by
  have hne : (a : ZMod p) ≠ 0 := fun h0 => by
    have := (emod_eq_zero_iff p a).mpr h0
    rw [Int.emod_eq_of_lt (by omega) (by omega)] at this
    omega
  have hfermat : (a : ZMod p) ^ (d * 2 ^ e) = 1 := by rw [← hsplit, ZMod.pow_card_sub_one_eq_one hne]
  refine (one_or_neg_one_of_pow_eq_one _ d e hfermat).imp (pow_emod_one_iff p a d).mpr ?_
  rintro ⟨h, hlt, hval⟩
  refine ⟨h, hlt, (emod_eq_iff_intCast p _ (by omega) (by omega)).mpr ?_⟩
  simpa using hval

theorem verdictOver_prime {p : Nat} (hp : p.Prime) (h3 : 3 < (p : Int)) (hodd : (p : Int) % 2 = 1)
    (as : List Int) (has : ∀ a ∈ as, 2 ≤ a ∧ a ≤ (p : Int) - 2) : verdictOver p as = true := by
  have := Fact.mk hp
  obtain ⟨hsplit, hd⟩ := splitTwo_spec (p - 1) (p - 1) (by omega) le_rfl
  have hcast : (p : Int) - 1 = (splitTwo (p - 1) (p - 1)).1 * 2 ^ (splitTwo (p - 1) (p - 1)).2 := by
    rw [← Nat.cast_one, ← Nat.cast_sub (by omega)]
    exact_mod_cast hsplit
  exact (verdictOver_iff h3 hodd hcast hd as).mpr fun a ha =>
    passesBase_of_prime p hsplit (has a ha).1 (has a ha).2

/-- The verdict of a prime is 1, unless a draw fails (R354). -/
theorem millerRabin_prime {p : Nat} (hp : p.Prime) (src : Source) (i k : Nat) (td : Bool) :
    (∃ used, millerRabin src i p k td = (.ok true, used)) ∨
    (millerRabin src i p k td = (.error .functionFailed, k) ∧ ∃ j < k, src (i + j) = none) := by
  cases hverdict : verdictWithoutDraw (p : Int) td with
  | some v =>
    rw [verdictWithoutDraw_prime hp hverdict] at hverdict
    exact .inl ⟨0, millerRabin_decided hverdict⟩
  | none =>
    have ⟨h3, hodd⟩ := verdictWithoutDraw_none hverdict
    rcases supply_cases src i k with ⟨r, hr⟩ | hfail
    · have hpass : verdictOver p ((List.range k).map fun j => uniformOf (r j) 2 ((p : Int) - 2)) = true :=
        verdictOver_prime hp h3 hodd _
          (List.forall_mem_map.mpr fun j _ => uniformOf_bounds (by omega) (r j))
      exact .inl ⟨k, by rw [millerRabin_drawn hverdict hr, hpass]⟩
    · exact .inr ⟨millerRabin_failed hverdict hfail, hfail⟩

/-- Settles O48: no draw is a witness for a prime. -/
theorem mrtestPassesEveryPrime : Obligations.MrtestPassesEveryPrime := by
  intro s rs1 td k p hp hreg
  rw [execMrtest_eq, hreg]
  rcases millerRabin_prime hp Config.source s.draws (roundCount k.toNat) td with ⟨used, h⟩ | ⟨h, hfail⟩
  · exact ⟨used, .inl (by rw [h]; rfl)⟩
  · exact ⟨roundCount k.toNat, .inr ⟨by rw [h]; rfl, hfail⟩⟩

end Sys2Proof.Machine
end

section
/-! PROOFS. PRIMEGEN (42_random_prime.md section 2): one attempt of the candidate loop, the search over
attempts, what an accepted candidate satisfies, and the command. -/

namespace Sys2Proof.Machine

/-! ### One attempt -/

/-- The candidate formed from consultation `i`: the top bit and bit 0 forced (R355). -/
def primeCandidate (src : Source) (n i : Nat) : Nat := topBitOf n ((src i).getD 0) ||| 1

/-- The verdict on that candidate, with trial division and `k` rounds (R354, R355). -/
def primeVerdict (src : Source) (n k i : Nat) : Except ErrCode Bool × Nat :=
  millerRabin src (i + 1) (primeCandidate src n i : Int) k true

/-- The consultation at which the attempt after the one of consultation `i` starts. -/
def nextAttempt (src : Source) (n k i : Nat) : Nat :=
  if src i = none then i + 1 else i + 1 + (primeVerdict src n k i).2

/-- A consultation of the attempt that starts at `i` fails. -/
def AttemptFails (src : Source) (n k i : Nat) : Prop :=
  ∃ h, i ≤ h ∧ h < nextAttempt src n k i ∧ src h = none

/-- The attempt that starts at `i` draws what it asks for and refuses its candidate. -/
def AttemptRefuses (src : Source) (n k i : Nat) : Prop :=
  ¬ AttemptFails src n k i ∧ (primeVerdict src n k i).1 = .ok false

variable {src : Source} {n k i left attempt : Nat}

theorem le_nextAttempt (src : Source) (n k i : Nat) : i ≤ nextAttempt src n k i := by
  rw [nextAttempt]
  split <;> omega

/-- The verdict is FunctionFailed exactly where one of the consultations it makes fails (R61, R354). -/
theorem millerRabin_cases (src : Source) (i : Nat) (c : Int) (k : Nat) (td : Bool) :
    (∃ v, (millerRabin src i c k td).1 = .ok v ∧
      ∀ j < (millerRabin src i c k td).2, src (i + j) ≠ none) ∨
    ((millerRabin src i c k td).1 = .error .functionFailed ∧
      ∃ j < (millerRabin src i c k td).2, src (i + j) = none) := by
  cases hverdict : verdictWithoutDraw c td with
  | some v =>
    rw [millerRabin_decided hverdict]
    exact .inl ⟨v, rfl, nofun⟩
  | none =>
    rcases supply_cases src i k with ⟨r, hr⟩ | hfail
    · rw [millerRabin_drawn hverdict hr]
      exact .inl ⟨_, rfl, fun j hj hnone => nomatch (hr j hj).symm.trans hnone⟩
    · rw [millerRabin_failed hverdict hfail]
      exact .inr ⟨rfl, hfail⟩

/-- One attempt fails, accepts its candidate, or refuses it and goes on to the next (R355). -/
theorem primeSearch_attempt (src : Source) (n k left attempt i : Nat) :
    (AttemptFails src n k i ∧
      primeSearch src n k (left + 1) attempt i = (.error .functionFailed, nextAttempt src n k i)) ∨
    (¬ AttemptFails src n k i ∧ (primeVerdict src n k i).1 = .ok true ∧
      primeSearch src n k (left + 1) attempt i =
        (.ok ((primeCandidate src n i : Int), attempt), nextAttempt src n k i)) ∨
    (AttemptRefuses src n k i ∧ primeSearch src n k (left + 1) attempt i =
      primeSearch src n k left (attempt + 1) (nextAttempt src n k i)) := by
  cases hsrc : src i with
  | none =>
    have hnext : nextAttempt src n k i = i + 1 := if_pos hsrc
    refine .inl ⟨⟨i, le_rfl, by omega, hsrc⟩, ?_⟩
    simp only [primeSearch, drawTopBit_none hsrc, hnext]
  | some r =>
    have hnext : nextAttempt src n k i = i + 1 + (primeVerdict src n k i).2 := if_neg (by simp [hsrc])
    have hcand : orOne (topBitOf n r : Int) = (primeCandidate src n i : Int) := by
      rw [orOne_natCast, primeCandidate, hsrc, Option.getD_some]
    have hstep : primeSearch src n k (left + 1) attempt i =
        match (primeVerdict src n k i).1 with
        | .error e => (.error e, nextAttempt src n k i)
        | .ok true => (.ok ((primeCandidate src n i : Int), attempt), nextAttempt src n k i)
        | .ok false => primeSearch src n k left (attempt + 1) (nextAttempt src n k i) := by
      simp only [primeSearch, drawTopBit_some hsrc, hcand, hnext]
      rw [← primeVerdict]
      rcases primeVerdict src n k i with ⟨e | v, used⟩
      · rfl
      · cases v <;> rfl
    rw [hstep]
    rcases millerRabin_cases src (i + 1) (primeCandidate src n i) k true with
      ⟨v, hv, hdrawn⟩ | ⟨herror, j, hj, hnone⟩
    · have hgood : ¬ AttemptFails src n k i := by
        rintro ⟨h, hih, hlt, hnone⟩
        rcases hih.eq_or_lt with rfl | hlater
        · rw [hsrc] at hnone; cases hnone
        · obtain ⟨j, rfl⟩ := Nat.exists_eq_add_of_lt hlater
          have hj : j < (primeVerdict src n k i).2 := by omega
          exact hdrawn j hj (by rw [← hnone]; congr 1; omega)
      change (primeVerdict src n k i).1 = .ok v at hv
      cases v with
      | true => exact .inr (.inl ⟨hgood, hv, by rw [hv]⟩)
      | false => exact .inr (.inr ⟨⟨hgood, hv⟩, by rw [hv]⟩)
    · change (primeVerdict src n k i).1 = .error .functionFailed at herror
      change j < (primeVerdict src n k i).2 at hj
      exact .inl ⟨⟨i + 1 + j, by omega, by omega, hnone⟩, by rw [herror]⟩

/-! ### The search -/

/-- The consultation at which attempt `j`, counted from 0, starts. -/
def attemptStart (src : Source) (n k i j : Nat) : Nat := (nextAttempt src n k)^[j] i

theorem attemptStart_succ (src : Source) (n k i j : Nat) :
    attemptStart src n k i (j + 1) = nextAttempt src n k (attemptStart src n k i j) :=
  Function.iterate_succ_apply' ..

theorem attemptStart_next (src : Source) (n k i j : Nat) :
    attemptStart src n k (nextAttempt src n k i) j = attemptStart src n k i (j + 1) :=
  (Function.iterate_succ_apply ..).symm

theorem le_attemptStart (src : Source) (n k i j : Nat) : i ≤ attemptStart src n k i j :=
  Function.id_le_iterate_of_id_le (le_nextAttempt src n k) j i

/-- The attempts before attempt `j` of the search from `i` all refuse. -/
def RefusesBefore (src : Source) (n k i j : Nat) : Prop :=
  ∀ h < j, AttemptRefuses src n k (attemptStart src n k i h)

theorem RefusesBefore.cons {j : Nat} (h : AttemptRefuses src n k i)
    (hrest : RefusesBefore src n k (nextAttempt src n k i) j) : RefusesBefore src n k i (j + 1) := by
  intro m hm
  cases m with
  | zero => exact h
  | succ m => exact attemptStart_next src n k i m ▸ hrest m (by omega)

/-- The search ends at the first attempt that accepts or fails, or after the last one (R355). -/
theorem primeSearch_cases (src : Source) (n k left attempt i : Nat) :
    (∃ j < left, RefusesBefore src n k i j ∧ ¬ AttemptFails src n k (attemptStart src n k i j) ∧
      (primeVerdict src n k (attemptStart src n k i j)).1 = .ok true ∧
      primeSearch src n k left attempt i =
        (.ok ((primeCandidate src n (attemptStart src n k i j) : Int), attempt + j),
          attemptStart src n k i (j + 1))) ∨
    (∃ j < left, RefusesBefore src n k i j ∧ AttemptFails src n k (attemptStart src n k i j) ∧
      primeSearch src n k left attempt i = (.error .functionFailed, attemptStart src n k i (j + 1))) ∨
    (RefusesBefore src n k i left ∧
      primeSearch src n k left attempt i = (.error .functionFailed, attemptStart src n k i left)) := by
  induction left generalizing attempt i with
  | zero => exact .inr (.inr ⟨nofun, rfl⟩)
  | succ left ih =>
    rcases primeSearch_attempt src n k left attempt i with ⟨hfail, h⟩ | ⟨hgood, hv, h⟩ | ⟨hrefuse, h⟩
    · exact .inr (.inl ⟨0, left.succ_pos, nofun, hfail, h⟩)
    · exact .inl ⟨0, left.succ_pos, nofun, hgood, hv, h⟩
    · rw [h]
      rcases ih (attempt + 1) (nextAttempt src n k i) with
        ⟨j, hj, hbefore, hrest⟩ | ⟨j, hj, hbefore, hrest⟩ | ⟨hbefore, hrest⟩
      · rw [attemptStart_next, attemptStart_next, Nat.add_assoc, Nat.add_comm 1 j] at hrest
        exact .inl ⟨j + 1, by omega, hbefore.cons hrefuse, hrest⟩
      · rw [attemptStart_next, attemptStart_next] at hrest
        exact .inr (.inl ⟨j + 1, by omega, hbefore.cons hrefuse, hrest⟩)
      · rw [attemptStart_next] at hrest
        exact .inr (.inr ⟨hbefore.cons hrefuse, hrest⟩)

/-! ### The candidate -/

theorem two_pow_le_primeCandidate (src : Source) (n i : Nat) : 2 ^ (n - 1) ≤ primeCandidate src n i :=
  (two_pow_le_topBitOf n _).trans Nat.left_le_or

theorem primeCandidate_lt (src : Source) (hn : n ≠ 0) (i : Nat) : primeCandidate src n i < 2 ^ n :=
  lor_one_lt hn (topBitOf_lt hn _)

theorem primeCandidate_odd (src : Source) (n i : Nat) : primeCandidate src n i % 2 = 1 := by
  simp [primeCandidate, Nat.or_mod_two_eq_one]

theorem primeCandidate_two (src : Source) (i : Nat) : primeCandidate src 2 i = 3 := by
  have hlow := two_pow_le_primeCandidate src 2 i
  have hhigh := primeCandidate_lt src (n := 2) (by decide) i
  have hodd := primeCandidate_odd src 2 i
  omega

/-- Of 2 bits there is one odd candidate, and it is accepted without a draw (R354, R355). -/
theorem primeSearch_two (src : Source) (k left attempt i : Nat) : primeSearch src 2 k (left + 1) attempt i =
    match src i with
    | none => (.error .functionFailed, i + 1)
    | some _ => (.ok (3, attempt), i + 1) := by
  have hverdict : primeVerdict src 2 k i = (.ok true, 0) := by
    rw [primeVerdict, primeCandidate_two]
    exact millerRabin_decided (verdictWithoutDraw_two_three (.inr rfl))
  have hnext : nextAttempt src 2 k i = i + 1 := by rw [nextAttempt, hverdict]; exact ite_self _
  rcases primeSearch_attempt src 2 k left attempt i with
    ⟨⟨h, hle, hlt, hnone⟩, hsearch⟩ | ⟨hgood, -, hsearch⟩ | ⟨⟨-, hrefused⟩, -⟩
  · obtain rfl : i = h := by omega
    rw [hsearch, hnext, hnone]
  · obtain ⟨r, hsome⟩ := Option.ne_none_iff_exists'.mp fun hnone => hgood ⟨i, le_rfl, by omega, hnone⟩
    rw [hsearch, hnext, hsome, primeCandidate_two]
    rfl
  · rw [hverdict] at hrefused
    cases hrefused

/-- An odd number of 2 bits or more that the verdict accepts is no multiple of a trial prime but itself. -/
theorem eq_of_dvd_of_accepted {c q : Nat} (hc : 2 ≤ c) (hodd : c % 2 = 1)
    (h : (millerRabin src i c k true).1 = .ok true) (hprime : q.Prime) (h3 : 3 ≤ q) (hlt : q < 1000)
    (hdvd : q ∣ c) : q = c := by
  have hqc : q ≤ c := Nat.le_of_dvd (by omega) hdvd
  by_cases hsmall : c ≤ 3
  · omega
  · have hmod : (c : Int) % q = 0 := Int.emod_eq_zero_of_dvd (Int.natCast_dvd_natCast.mpr hdvd)
    have hverdict : verdictWithoutDraw (c : Int) true = some (decide ((c : Int) = q)) := by
      rw [verdictWithoutDraw_odd (by omega) (by omega), if_pos rfl, trialDivide_of_dvd hprime h3 hlt hmod]
    rw [millerRabin_decided hverdict] at h
    exact (Int.ofNat.inj (of_decide_eq_true (Except.ok.inj h))).symm

/-! ### The command -/

variable (s : State)

theorem checkPrimegen_small (h : n < 2) : checkPrimegen n = .error .domainError := by
  rw [checkPrimegen, decide_eq_false (not_le.mpr h), need_false, except_error_bind]

theorem checkPrimegen_large (h : 8192 < n) : checkPrimegen n = .error .capacityExceeded := by
  have hlarge : decide (n ≤ 8192) = false := decide_eq_false (by omega)
  rw [checkPrimegen, decide_eq_true (show 2 ≤ n by omega)]
  exact congrArg (need · .capacityExceeded) hlarge

theorem checkPrimegen_ok (h2 : 2 ≤ n) (h : n ≤ 8192) : checkPrimegen n = .ok () := by
  have hfits : decide (n ≤ 8192) = true := decide_eq_true h
  rw [checkPrimegen, decide_eq_true h2]
  exact congrArg (need · .capacityExceeded) hfits

variable {rd : Reg} {bits rounds : BitVec 16}

theorem execPrimegen_error {e : ErrCode} (h : checkPrimegen bits.toNat = .error e) :
    exec (.primegen rd bits rounds) s = .next (s.ended e.code) := by
  simp only [exec, execPrimegen, h]
  rfl

/-- The consultations up to `i` are spent once the supply stands at `i`. -/
theorem spend_sub {i : Nat} (h : s.draws ≤ i) : s.spend (i - s.draws) = { s with draws := i } := by
  rw [State.spend, Nat.add_sub_cancel' h]

/-- PRIMEGEN ends in the error of its search, the consultations of the search spent (R62, R355). -/
theorem execPrimegen_failed (h2 : 2 ≤ bits.toNat) (h : bits.toNat ≤ 8192) {e : ErrCode} {i : Nat}
    (hi : s.draws ≤ i)
    (hsearch : primeSearch Config.source bits.toNat (roundCount rounds.toNat) Config.primegenMaxAttempts 1
      s.draws = (.error e, i)) :
    exec (.primegen rd bits rounds) s = .next (({ s with draws := i } : State).ended e.code) := by
  simp only [exec, execPrimegen, checkPrimegen_ok h2 h, primegenSearch, hsearch, spend_sub s hi,
    except_error_bind]
  rfl

/-- PRIMEGEN writes the candidate its search accepts and its index (R355). -/
theorem execPrimegen_found (h2 : 2 ≤ bits.toNat) (h : bits.toNat ≤ 8192) {c index i : Nat} (hi : s.draws ≤ i)
    (hc : c < 2 ^ bits.toNat)
    (hsearch : primeSearch Config.source bits.toNat (roundCount rounds.toNat) Config.primegenMaxAttempts 1
      s.draws = (.ok ((c : Int), index), i)) :
    exec (.primegen rd bits rounds) s = .next (({ s with
      regs := s.regs.set rd (c : Int), res0 := BitVec.ofNat 64 index, res1 := 0, draws := i } : State).ended
        0) := by
  have hfits : (c : Int).natAbs < Config.cap := by rw [cap_eq]; exact natAbs_lt_of_bits hc h
  simp only [exec, execPrimegen, checkPrimegen_ok h2 h, primegenSearch, hsearch, spend_sub s hi,
    except_ok_bind, writeReg_ok _ hfits]
  rfl

/-- Settles O49: the search of the loop, read off attempt by attempt. -/
theorem primegenAcceptsOnlyFittingCandidates : Obligations.PrimegenAcceptsOnlyFittingCandidates := by
  intro s rd bits rounds n k candidate test start drawFailed refused
  have hfails : ∀ j, drawFailed j ↔
      AttemptFails Config.source n k (attemptStart Config.source n k s.draws j) := fun j => by
    rw [AttemptFails, ← attemptStart_succ]; rfl
  have hrefused : ∀ j, RefusesBefore Config.source n k s.draws j → ∀ h < j, refused h :=
    fun j hbefore h hlt => ⟨fun hfail => (hbefore h hlt).1 ((hfails h).mp hfail), (hbefore h hlt).2⟩
  have hle := le_attemptStart Config.source n k s.draws
  refine ⟨fun h => execPrimegen_error s (checkPrimegen_small h),
    fun h => execPrimegen_error s (checkPrimegen_large h), fun h2 hn => ?_, fun h2 => ?_⟩
  · have hn0 : n ≠ 0 := by omega
    rcases primeSearch_cases Config.source n k Config.primegenMaxAttempts 1 s.draws with
      ⟨j, hj, hbefore, hgood, haccept, hsearch⟩ | ⟨j, hj, hbefore, hfail, hsearch⟩ | ⟨hbefore, hsearch⟩
    · have hlow := two_pow_le_primeCandidate Config.source n (start j)
      have hlt := primeCandidate_lt Config.source hn0 (start j)
      have hodd := primeCandidate_odd Config.source n (start j)
      have htwo : 2 ≤ primeCandidate Config.source n (start j) :=
        (Nat.le_self_pow (by omega) 2).trans hlow
      refine .inl ⟨j, hj, hrefused j hbefore, fun hfail => hgood ((hfails j).mp hfail), haccept, hlow, hlt,
        hodd, fun q hprime h3 hq hdvd => eq_of_dvd_of_accepted htwo hodd haccept hprime h3 hq hdvd, ?_⟩
      rw [Nat.add_comm 1 j] at hsearch
      exact execPrimegen_found s h2 hn (hle _) hlt hsearch
    · exact .inr (.inl ⟨j, hj, hrefused j hbefore, (hfails j).mpr hfail,
        execPrimegen_failed s h2 hn (hle _) hsearch⟩)
    · exact .inr (.inr ⟨hrefused _ hbefore, execPrimegen_failed s h2 hn (hle _) hsearch⟩)
  · have hsearch := primeSearch_two Config.source k 1048575 1 s.draws
    split
    case h_1 hnone =>
      rw [hnone, ← h2] at hsearch
      exact execPrimegen_failed s h2.ge (by omega) (Nat.le_succ _) hsearch
    case h_2 hsome =>
      rw [hsome, ← h2] at hsearch
      have hthree : 3 < 2 ^ n := by rw [h2]; decide
      exact execPrimegen_found s h2.ge (by omega) (Nat.le_succ _) hthree hsearch

end Sys2Proof.Machine
end

section
/-! PROOFS. AES (43_aes_core.md, 44_aes_modes.md section 1): each round transform has its inverse, hence
the block functions invert each other, and a chunk decrypts back in every mode. -/

namespace Sys2Proof.Machine

/-! ### XOR of columns and blocks -/

theorem Column.xor_cancel_right (a b : Column) : (a.xor b).xor b = a := by
  simp [Column.xor]

theorem Block.xor_cancel_right (a b : Block) : (a.xor b).xor b = a := by
  simp only [Block.xor, Column.xor_cancel_right]

theorem addRoundKey_addRoundKey (w : List Column) (rk : Nat) (s : Block) :
    addRoundKey w rk (addRoundKey w rk s) = s := Block.xor_cancel_right s _

/-! ### SubBytes and ShiftRows -/

/-- The second ROM undoes the first (R401, R402). -/
theorem invSbox_sbox : ∀ v : Byte, invSbox (sbox v) = v := by decide +kernel

theorem sbox_invSbox : ∀ v : Byte, sbox (invSbox v) = v := by decide +kernel

theorem Block.map_map_cancel {f g : Column → Column} (h : ∀ a, g (f a) = a) (s : Block) :
    (s.map f).map g = s := by simp only [Block.map, h]

theorem Column.map_map_cancel {f g : Byte → Byte} (h : ∀ v, g (f v) = v) (a : Column) :
    (a.map f).map g = a := by simp only [Column.map, h]

theorem invSubBytes_subBytes (s : Block) : invSubBytes (subBytes s) = s :=
  Block.map_map_cancel (Column.map_map_cancel invSbox_sbox) s

theorem subBytes_invSubBytes (s : Block) : subBytes (invSubBytes s) = s :=
  Block.map_map_cancel (Column.map_map_cancel sbox_invSbox) s

theorem invShiftRows_shiftRows (s : Block) : invShiftRows (shiftRows s) = s := rfl

theorem shiftRows_invShiftRows (s : Block) : shiftRows (invShiftRows s) = s := rfl

/-! ### MixColumns

Every entry of the two matrices is a small polynomial in `xtime`, which is additive, and the products of
these polynomials cancel to the identity without a reduction (R400, R409). -/

theorem xtime_xor (u v : Byte) : xtime (u ^^^ v) = xtime u ^^^ xtime v := by
  have hcarry : ∀ w : Byte, (if 0x80 ≤ w.toNat then 0x1B else 0 : Byte) = if w.msb then 0x1B else 0 :=
    fun w => by simp [BitVec.msb_eq_decide]
  have hreduce : (if (u ^^^ v).msb then 0x1B else 0 : Byte) =
      (if u.msb then 0x1B else 0) ^^^ (if v.msb then 0x1B else 0) := by
    rw [BitVec.msb_xor]
    cases u.msb <;> cases v.msb <;> rfl
  simp only [xtime, hcarry, BitVec.shiftLeft_xor_distrib, hreduce]
  ac_rfl

theorem gmul_one (v : Byte) : gmul 1 v = v := by simp [gmul, gmulBits]

theorem gmul_two (v : Byte) : gmul 2 v = xtime v := by simp [gmul, gmulBits]

theorem gmul_three (v : Byte) : gmul 3 v = v ^^^ xtime v := by simp [gmul, gmulBits]

theorem gmul_nine (v : Byte) : gmul 9 v = v ^^^ xtime (xtime (xtime v)) := by simp [gmul, gmulBits]

theorem gmul_eleven (v : Byte) : gmul 11 v = v ^^^ (xtime v ^^^ xtime (xtime (xtime v))) := by
  simp [gmul, gmulBits]

theorem gmul_thirteen (v : Byte) : gmul 13 v = v ^^^ (xtime (xtime v) ^^^ xtime (xtime (xtime v))) := by
  simp [gmul, gmulBits]

theorem gmul_fourteen (v : Byte) : gmul 14 v = xtime v ^^^ (xtime (xtime v) ^^^ xtime (xtime (xtime v))) := by
  simp [gmul, gmulBits]

theorem xor_left_comm (u v w : Byte) : u ^^^ (v ^^^ w) = v ^^^ (u ^^^ w) := by ac_rfl

theorem xor_cancel_left (u v : Byte) : u ^^^ (u ^^^ v) = v := by
  rw [← BitVec.xor_assoc, BitVec.xor_self, BitVec.zero_xor]

theorem gmul_xor (m u v : Byte) : gmul m (u ^^^ v) = gmul m u ^^^ gmul m v := by
  have hbits : ∀ n m u v, gmulBits n m (u ^^^ v) = gmulBits n m u ^^^ gmulBits n m v := fun n => by
    induction n with
    | zero => exact fun _ _ _ => BitVec.xor_self.symm
    | succ n ih =>
      intro m u v
      simp only [gmulBits, xtime_xor, ih]
      split
      · ac_rfl
      · simp
  exact hbits 8 m u v

/-- A row of a circulant matrix reads a rotated column as the next row reads the column (R409). -/
theorem mixRow_rotWord (m0 m1 m2 m3 : Byte) (a : Column) :
    mixRow m0 m1 m2 m3 (rotWord a) = mixRow m3 m0 m1 m2 a := by
  simp only [mixRow, rotWord]
  ac_rfl

theorem mixColumn_rotWord (a : Column) : mixColumn (rotWord a) = rotWord (mixColumn a) := by
  rw [mixColumn, mixRow_rotWord, mixRow_rotWord, mixRow_rotWord, mixRow_rotWord]
  rfl

theorem invMixColumn_rotWord (a : Column) : invMixColumn (rotWord a) = rotWord (invMixColumn a) := by
  rw [invMixColumn, mixRow_rotWord, mixRow_rotWord, mixRow_rotWord, mixRow_rotWord]
  rfl

/-- A map that commutes with the rotation and keeps the first byte keeps every byte. -/
theorem eq_self_of_rotWord {f : Column → Column} (hrot : ∀ a, f (rotWord a) = rotWord (f a))
    (hfirst : ∀ a, (f a).b0 = a.b0) (a : Column) : f a = a := by
  have hsecond : ∀ a, (f a).b1 = a.b1 := fun a =>
    (congrArg Column.b0 (hrot a)).symm.trans (hfirst (rotWord a))
  have hthird : ∀ a, (f a).b2 = a.b2 := fun a =>
    (congrArg Column.b1 (hrot a)).symm.trans (hsecond (rotWord a))
  have hfourth : ∀ a, (f a).b3 = a.b3 := fun a =>
    (congrArg Column.b2 (hrot a)).symm.trans (hthird (rotWord a))
  calc f a = ⟨(f a).b0, (f a).b1, (f a).b2, (f a).b3⟩ := rfl
    _ = a := by rw [hfirst, hsecond, hthird, hfourth]

/-- A row of coefficients against a column of coefficients, acting on one byte. -/
def gmulDot (p m : Column) (x : Byte) : Byte :=
  gmul p.b0 (gmul m.b0 x) ^^^ (gmul p.b1 (gmul m.b1 x) ^^^
    (gmul p.b2 (gmul m.b2 x) ^^^ gmul p.b3 (gmul m.b3 x)))

/-- The first entry of a product of circulant matrices, one coefficient for each byte of the column. -/
theorem mixRow_circulant (p0 p1 p2 p3 m0 m1 m2 m3 : Byte) (a : Column) :
    mixRow p0 p1 p2 p3 ⟨mixRow m0 m1 m2 m3 a, mixRow m3 m0 m1 m2 a, mixRow m2 m3 m0 m1 a,
      mixRow m1 m2 m3 m0 a⟩ =
    gmulDot ⟨p0, p1, p2, p3⟩ ⟨m0, m3, m2, m1⟩ a.b0 ^^^
      gmulDot ⟨p0, p1, p2, p3⟩ ⟨m1, m0, m3, m2⟩ a.b1 ^^^
      gmulDot ⟨p0, p1, p2, p3⟩ ⟨m2, m1, m0, m3⟩ a.b2 ^^^
      gmulDot ⟨p0, p1, p2, p3⟩ ⟨m3, m2, m1, m0⟩ a.b3 := by
  simp only [mixRow, gmulDot, gmul_xor]
  ac_rfl

/-- The coefficients of a product of the two matrices are those of the identity. -/
theorem invMix_mix_coefficients (x : Byte) :
    gmulDot ⟨14, 11, 13, 9⟩ ⟨2, 1, 1, 3⟩ x = x ∧ gmulDot ⟨14, 11, 13, 9⟩ ⟨3, 2, 1, 1⟩ x = 0#8 ∧
    gmulDot ⟨14, 11, 13, 9⟩ ⟨1, 3, 2, 1⟩ x = 0#8 ∧ gmulDot ⟨14, 11, 13, 9⟩ ⟨1, 1, 3, 2⟩ x = 0#8 := by
  refine ⟨?_, ?_, ?_, ?_⟩ <;>
  simp only [gmulDot, gmul_one, gmul_two, gmul_three, gmul_nine, gmul_eleven, gmul_thirteen,
    gmul_fourteen, xtime_xor, BitVec.xor_assoc, BitVec.xor_comm, xor_left_comm, xor_cancel_left,
    BitVec.xor_self, BitVec.xor_zero]

theorem mix_invMix_coefficients (x : Byte) :
    gmulDot ⟨2, 3, 1, 1⟩ ⟨14, 9, 13, 11⟩ x = x ∧ gmulDot ⟨2, 3, 1, 1⟩ ⟨11, 14, 9, 13⟩ x = 0#8 ∧
    gmulDot ⟨2, 3, 1, 1⟩ ⟨13, 11, 14, 9⟩ x = 0#8 ∧ gmulDot ⟨2, 3, 1, 1⟩ ⟨9, 13, 11, 14⟩ x = 0#8 := by
  refine ⟨?_, ?_, ?_, ?_⟩ <;>
  simp only [gmulDot, gmul_one, gmul_two, gmul_three, gmul_nine, gmul_eleven, gmul_thirteen,
    gmul_fourteen, xtime_xor, BitVec.xor_assoc, BitVec.xor_comm, xor_left_comm, xor_cancel_left,
    BitVec.xor_self, BitVec.xor_zero]

theorem invMixColumn_mixColumn (a : Column) : invMixColumn (mixColumn a) = a := by
  refine eq_self_of_rotWord (f := fun a => invMixColumn (mixColumn a))
    (fun a => by rw [mixColumn_rotWord, invMixColumn_rotWord])
    (fun a => (mixRow_circulant 14 11 13 9 2 3 1 1 a).trans ?_) a
  rw [(invMix_mix_coefficients a.b0).1, (invMix_mix_coefficients a.b1).2.1,
    (invMix_mix_coefficients a.b2).2.2.1, (invMix_mix_coefficients a.b3).2.2.2]
  simp

theorem mixColumn_invMixColumn (a : Column) : mixColumn (invMixColumn a) = a := by
  refine eq_self_of_rotWord (f := fun a => mixColumn (invMixColumn a))
    (fun a => by rw [invMixColumn_rotWord, mixColumn_rotWord])
    (fun a => (mixRow_circulant 2 3 1 1 14 11 13 9 a).trans ?_) a
  rw [(mix_invMix_coefficients a.b0).1, (mix_invMix_coefficients a.b1).2.1,
    (mix_invMix_coefficients a.b2).2.2.1, (mix_invMix_coefficients a.b3).2.2.2]
  simp

theorem invMixColumns_mixColumns (s : Block) : invMixColumns (mixColumns s) = s :=
  Block.map_map_cancel invMixColumn_mixColumn s

theorem mixColumns_invMixColumns (s : Block) : mixColumns (invMixColumns s) = s :=
  Block.map_map_cancel mixColumn_invMixColumn s

/-! ### The block functions -/

/-- A list of steps `f`, seen through `φ`, is undone by the steps `g` in the reverse order. -/
theorem foldl_reverse_cancel {α β γ : Type} {f : β → α → β} {g : γ → α → γ} {φ : β → γ}
    (h : ∀ b a, g (φ (f b a)) a = φ b) (l : List α) (b : β) :
    l.reverse.foldl g (φ (l.foldl f b)) = φ b := by
  induction l generalizing b with
  | nil => rfl
  | cons a l ih =>
    rw [List.reverse_cons, List.foldl_append, List.foldl_cons (f := f), ih, List.foldl_cons, h, List.foldl_nil]

/-- A decryption round undoes an encryption round, seen through ShiftRows and SubBytes (R411, R412). -/
theorem decRound_encRound (w : List Column) (s : Block) (rk : Nat) :
    decRound w (shiftRows (subBytes (encRound w s rk))) rk = shiftRows (subBytes s) := by
  rw [decRound, invShiftRows_shiftRows, invSubBytes_subBytes, encRound, addRoundKey_addRoundKey,
    invMixColumns_mixColumns]

theorem encRound_decRound (w : List Column) (s : Block) (rk : Nat) :
    encRound w (invSubBytes (invShiftRows (decRound w s rk))) rk = invSubBytes (invShiftRows s) := by
  rw [encRound, subBytes_invSubBytes, shiftRows_invShiftRows, decRound, mixColumns_invMixColumns,
    addRoundKey_addRoundKey]

theorem aesD_aesE (key : List Byte) (b : Block) : aesD key (aesE key b) = b := by
  simp only [aesD, aesE, addRoundKey_addRoundKey]
  rw [foldl_reverse_cancel (φ := fun s => shiftRows (subBytes s)) (decRound_encRound _),
    invShiftRows_shiftRows, invSubBytes_subBytes, addRoundKey_addRoundKey]

theorem aesE_aesD (key : List Byte) (b : Block) : aesE key (aesD key b) = b := by
  have hrounds := foldl_reverse_cancel (φ := fun s => invSubBytes (invShiftRows s))
    (encRound_decRound (keyExpansion key)) (List.range' 1 (roundCountOf key - 1)).reverse
  rw [List.reverse_reverse] at hrounds
  simp only [aesD, aesE, addRoundKey_addRoundKey]
  rw [hrounds, subBytes_invSubBytes, shiftRows_invShiftRows, addRoundKey_addRoundKey]

/-- Settles O50: the rounds cancel one after the other, from the inside out. -/
theorem aesDecryptionInvertsEncryption : Obligations.AesDecryptionInvertsEncryption :=
  fun key b => ⟨aesD_aesE key b, aesE_aesD key b⟩

/-! ### Blocks and bytes -/

theorem Block.ofBytes_append (b : Block) (rest : List Byte) : Block.ofBytes (b.toBytes ++ rest) = b := rfl

theorem Block.drop_append (b : Block) (rest : List Byte) : (b.toBytes ++ rest).drop 16 = rest := rfl

theorem Column.toBytes_ofBytes {s : List Byte} (h : 4 ≤ s.length) : (Column.ofBytes s).toBytes = s.take 4 := by
  match s, h with
  | _ :: _ :: _ :: _ :: _, _ => rfl

/-- The block at the front of a byte string is its first sixteen bytes (R404). -/
theorem Block.toBytes_ofBytes {s : List Byte} (h : 16 ≤ s.length) : (Block.ofBytes s).toBytes = s.take 16 := by
  have hsplit : s.take 16 = s.take 4 ++ (s.drop 4).take 4 ++ (s.drop 8).take 4 ++ (s.drop 12).take 4 := by
    rw [← List.take_add, ← List.take_add, ← List.take_add]
  rw [hsplit, Block.toBytes, Block.ofBytes, Column.toBytes_ofBytes (by omega),
    Column.toBytes_ofBytes (by rw [List.length_drop]; omega),
    Column.toBytes_ofBytes (by rw [List.length_drop]; omega),
    Column.toBytes_ofBytes (by rw [List.length_drop]; omega)]

theorem bytesOfBlocks_cons (b : Block) (bs : List Block) :
    bytesOfBlocks (b :: bs) = b.toBytes ++ bytesOfBlocks bs := List.flatMap_cons

theorem blocksOf_bytesOfBlocks (bs : List Block) : blocksOf bs.length (bytesOfBlocks bs) = bs := by
  induction bs with
  | nil => rfl
  | cons b bs ih =>
    rw [bytesOfBlocks_cons, List.length_cons, blocksOf, Block.ofBytes_append, Block.drop_append, ih]

theorem bytesOfBlocks_blocksOf {m : Nat} {s : List Byte} (h : s.length = 16 * m) :
    bytesOfBlocks (blocksOf m s) = s := by
  induction m generalizing s with
  | zero => rw [List.length_eq_zero_iff.mp h]; rfl
  | succ m ih =>
    rw [blocksOf, bytesOfBlocks_cons, Block.toBytes_ofBytes (by omega),
      ih (by rw [List.length_drop]; omega), List.take_append_drop]

/-! ### Padding -/

theorem pad_length (p : List Byte) : (pad p).length = pad16 p.length := by
  rw [pad, List.length_append, List.length_replicate, pad16]

/-- The last byte of a padded string is its pad length (R452, R453). -/
theorem padByte_pad (p : List Byte) : padByte (pad p) = some (16 - p.length % 16) := by
  obtain ⟨m, hm⟩ : ∃ m, padLen p.length = m + 1 := ⟨15 - p.length % 16, by rw [padLen]; omega⟩
  have hlast : (pad p).getLastD 0 = BitVec.ofNat 8 (padLen p.length) := by
    rw [pad, hm, List.replicate_succ', ← List.append_assoc, List.getLastD_concat]
  have hvalue : ((pad p).getLastD 0).toNat = 16 - p.length % 16 := by
    rw [hlast, BitVec.toNat_ofNat, padLen]
    omega
  rw [padByte, hvalue, if_pos (by omega)]

theorem pad_take (p : List Byte) : (pad p).take p.length = p := List.take_left' rfl

/-! ### Chaining -/

theorem decStep_encStep (mode : Mode) (key : List Byte) (fb p : Block) :
    decStep mode key fb (encStep mode key fb p).1 = (p, (encStep mode key fb p).2) := by
  cases mode <;> simp only [encStep, decStep, aesD_aesE, Block.xor_cancel_right]

/-- Steps that invert each other and agree on the feedback invert each other along a chain (R454). -/
theorem chain_inverse {enc dec : Block → Block → Block × Block}
    (h : ∀ fb p, dec fb (enc fb p).1 = (p, (enc fb p).2)) (fb : Block) (ps : List Block) :
    chain dec fb (chain enc fb ps).1 = (ps, (chain enc fb ps).2) := by
  induction ps generalizing fb with
  | nil => rfl
  | cons p ps ih => simp only [chain, h, ih]

theorem decryptChunk_encryptChunk (mode : Mode) (key : List Byte) (fb : Block) (p : List Byte) :
    decryptChunk mode key fb (encryptChunk mode key fb p).1 = (pad p, (encryptChunk mode key fb p).2) := by
  have hcount : (encryptChunk mode key fb p).1.length / 16 =
      (encBlocks mode key fb (blocksOf (pad16 p.length / 16) (pad p))).1.length := by
    rw [encryptChunk, bytesOfBlocks_length]
    omega
  have hpad : (pad p).length = 16 * (pad16 p.length / 16) := by rw [pad_length, pad16_eq]; omega
  rw [decryptChunk, hcount, encryptChunk, blocksOf_bytesOfBlocks, decBlocks, encBlocks,
    chain_inverse (decStep_encStep mode key)]
  simp only [bytesOfBlocks_blocksOf hpad]

/-- Settles O52: the blocks decrypt back one by one, and the pad tells its length. -/
theorem chunksDecryptBack : Obligations.ChunksDecryptBack := by
  intro mode key fb p
  refine ⟨encryptChunk_length mode key fb p, decryptChunk_encryptChunk mode key fb p, padByte_pad p, ?_⟩
  have hlen : (pad p).length - (16 - p.length % 16) = p.length := by rw [pad_length, pad16, padLen]; omega
  rw [hlen, pad_take]

end Sys2Proof.Machine
end

section
/-! PROOFS. AESENCS, and the stream round trips at the commands (44_aes_modes.md section 2): a decrypting
command that reads what an encrypting one wrote, with the same key and feedback, delivers the plaintext. -/

namespace Sys2Proof.Machine

variable {s v : State} {k k' : CtxIx} {mode : Mode} {imm : BitVec 32} {key p iv : List Byte} {fb : Block}

/-! ### The encrypt Start -/

/-- What a Start's encryption writes: the ciphertext and the IV, and the context of the stream (R460). -/
theorem startEnc_wrote (hwf : Memory.wf s.buf) (k : CtxIx) (mode : Mode) (key p : List Byte) (fb : Block)
    (iv : List Byte) {out : Nat} (hout : 16 * (p.length / 16 + 1) + iv.length = out) :
    let t := (s.startEnc k mode key p fb iv).succeed
    t = ({ s with
      buf := t.buf, ctxs := s.ctxs.set k (startedCtx .enc mode key (encryptChunk mode key fb p).2)
      res0 := BitVec.ofNat 64 out, res1 := BitVec.ofNat 64 (16 - p.length % 16) } : State).ended 0 ∧
    ∀ x, memGet t.buf x = if s.latched.arg2.toNat ≤ x ∧ x < s.latched.arg2.toNat + out
      then ((encryptChunk mode key fb p).1 ++ iv)[x - s.latched.arg2.toNat]? else memGet s.buf x := by
  have hlen : ((encryptChunk mode key fb p).1 ++ iv).length = out := by
    rw [List.length_append, encryptChunk_length, hout]
  have hres : natRes (pad16 p.length + iv.length) = BitVec.ofNat 64 out := by rw [pad16_eq, hout]; rfl
  rw [← hres]
  exact succeed_wrote_ctx s hwf s.latched.arg2.toNat hlen k _ _ _

theorem encStart_some {src : Source} {i r : Nat} (h : src i = some r) (hmode : mode ≠ .ecb) (t : State)
    (k : CtxIx) (key p : List Byte) : t.encStart src i k mode key p =
      .ok (t.startEnc k mode key p (Block.ofBytes (bytesOf r 16)) (bytesOf r 16)) := by
  rw [State.encStart, if_neg hmode, draw_some h]

theorem encStart_none {src : Source} {i : Nat} (h : src i = none) (hmode : mode ≠ .ecb) (t : State)
    (k : CtxIx) (key p : List Byte) : t.encStart src i k mode key p = .error .functionFailed := by
  rw [State.encStart, if_neg hmode, draw_none h]

/-- Settles O53: the checks in order; both reads and the draw precede the write. -/
theorem aesencsStartsAnEncryptedStream : Obligations.AesencsStartsAnEncryptedStream := by
  intro s k mode imm hwf KL src L dst cap ka iv lenOk rangesOk out started
  have hout : 16 * (s.latched.arg1.toNat / 16 + 1) + ivLen mode = out := rfl
  rw [execAesencs_eq, encStartOperands_eq, pad16_eq, hout]
  refine ⟨fun hlen => ?_, fun hlen hranges => ?_, fun hlen hranges hzero => ?_,
    fun hlen hranges hne hsmall => ?_, fun key p hlen hranges hne hfits hkey hp holdsKey holdsP => ?_⟩
  · rw [if_neg hlen]; rfl
  · rw [if_pos hlen, if_neg hranges]; rfl
  · rw [if_pos hlen, if_pos hranges, if_neg (not_not.mpr hzero)]; rfl
  · rw [if_pos hlen, if_pos hranges, if_pos hne, if_neg (not_le.mpr hsmall)]; rfl
  · rw [if_pos hlen, if_pos hranges, if_pos hne, if_pos hfits,
      readKeyThenInput_of_holds hkey hp holdsKey holdsP, finish_ok]
    have hwrote : ∀ (used : Nat) (fb : Block) (ivBytes : List Byte), ivBytes.length = iv →
        started key p fb ivBytes ((s.spend used).startEnc k mode key p fb ivBytes).succeed used := by
      intro used fb ivBytes hiv
      have h := startEnc_wrote (s := s.spend used) hwf k mode key p fb ivBytes (out := out) (by rw [hp, hiv])
      rw [hp, startedCtx, hkey] at h
      exact h
    refine ⟨_, rfl, fun hecb => ?_, fun hmode => ?_⟩
    · subst hecb
      exact hwrote 0 .zero [] rfl
    · simp only [if_neg hmode]
      split
      case h_1 hnone => rw [encStart_none hnone hmode]; rfl
      case h_2 r hsome =>
        rw [encStart_some hsome hmode]
        exact hwrote 1 _ _ ((toLE_length r 16).trans (if_neg hmode).symm)

/-! ### What a successful encryption has written -/

/-- A Start's IV is what the matching decrypt Start begins from (R457). -/
def IsStartIv (mode : Mode) (fb : Block) (iv : List Byte) : Prop :=
  iv.length = ivLen mode ∧ ∀ c : List Byte, startFeedback mode (c ++ iv) = fb

theorem isStartIv_ecb : IsStartIv .ecb .zero [] := ⟨rfl, fun _ => rfl⟩

theorem isStartIv_bytes (hmode : mode ≠ .ecb) (hiv : iv.length = 16) : IsStartIv mode (Block.ofBytes iv) iv := by
  refine ⟨hiv.trans (if_neg hmode).symm, fun c => ?_⟩
  have hdrop : (c ++ iv).drop ((c ++ iv).length - 16) = iv := by
    rw [List.length_append, hiv, Nat.add_sub_cancel, List.drop_left]
  rw [startFeedback, if_neg hmode, hdrop]

/-- A Start's encryption that does not fail has chosen an IV and a first feedback (R457, R460). -/
theorem encStart_ok_iv {src : Source} {i : Nat} {t u : State} (h : t.encStart src i k mode key p = .ok u) :
    ∃ fb iv, IsStartIv mode fb iv ∧ u = t.startEnc k mode key p fb iv := by
  by_cases hmode : mode = .ecb
  · subst hmode
    exact ⟨.zero, [], isStartIv_ecb, (Except.ok.inj h).symm⟩
  · cases hsrc : src i with
    | none => rw [encStart_none hsrc hmode] at h; cases h
    | some r =>
      rw [encStart_some hsrc hmode] at h
      exact ⟨_, _, isStartIv_bytes hmode (toLE_length r 16), (Except.ok.inj h).symm⟩

/-- An AESENCS without error: its operands, its IV, and the state it leaves (R460). -/
theorem execAesencs_success {t : State} (h : exec (.aesencs k mode imm) s = .next t) (ht : t.errcode = 0) :
    ∃ key p fb iv used, s.encStartOperands mode imm.toNat = .ok (key, p) ∧ IsStartIv mode fb iv ∧
      t = ((s.spend used).startEnc k mode key p fb iv).succeed := by
  rw [execAesencs_eq] at h
  obtain ⟨⟨key, p⟩, hread, rfl⟩ := finish_success h ht
  obtain ⟨u, hu, hend⟩ := complete_success ht
  obtain ⟨fb, iv, hiv, rfl⟩ := encStart_ok_iv hu
  exact ⟨key, p, fb, iv, _, hread, hiv, hend⟩

/-- An AESENCC without error: its chunk and the state it leaves (R461). -/
theorem execAesencc_success {t : State} (h : exec (.aesencc k) s = .next t) (ht : t.errcode = 0) :
    ∃ p, s.encContOperands k = .ok p ∧
      let e := encryptChunk (s.ctx k).mode (s.ctx k).keyBytes (s.ctx k).fb p
      t = (((s.write s.latched.arg2.toNat e.1).setCtx k { s.ctx k with fb := e.2 }).setRes
        (natRes (pad16 p.length)) (natRes (padLen p.length))).succeed := by
  rw [execAesencc_eq] at h
  exact finish_success h ht

/-! ### Decryption of a ciphertext that stands in the buffer -/

/-- A padded chunk is delivered without its pad, where the capacity has room (R453). -/
theorem deliver_pad (c : Ctx) (hroom : p.length ≤ v.latched.arg3.toNat) : v.deliver k c (pad p) =
    .ok (((v.write v.latched.arg2.toNat p).setCtx k c).setRes (natRes p.length) (natRes (padLen p.length))) := by
  have hunpadded : (pad p).length - (16 - p.length % 16) = p.length := by
    rw [pad_length, pad16, padLen]
    omega
  have hroom' : p.length ≤ v.latched.cap := hroom
  simp only [State.deliver, padByte_pad, hunpadded, if_pos hroom', pad_take]
  rfl

/-- AESDECS of what a Start encrypted gives the plaintext and the same feedback (R462). -/
theorem execAesdecs_of_encrypted (hsize : imm.toNat = 16 ∨ imm.toNat = 24 ∨ imm.toNat = 32)
    (hranges : v.latched.arg0.toNat + v.latched.arg1.toNat ≤ 65536 ∧
      v.latched.arg2.toNat + v.latched.arg3.toNat ≤ 65536 ∧ v.latched.arg4.toNat + imm.toNat ≤ 65536)
    (hiv : IsStartIv mode fb iv) (hkey : key.length = imm.toNat)
    (hlen : 16 * (p.length / 16 + 1) + iv.length = v.latched.arg1.toNat)
    (holdsKey : v.Holds v.latched.arg4.toNat key)
    (holds : v.Holds v.latched.arg0.toNat ((encryptChunk mode key fb p).1 ++ iv))
    (hroom : p.length ≤ v.latched.arg3.toNat) :
    exec (.aesdecs k mode imm) v = .next (((v.write v.latched.arg2.toNat p).setCtx k
      (startedCtx .dec mode key (encryptChunk mode key fb p).2)).setRes
        (natRes p.length) (natRes (padLen p.length))).succeed := by
  obtain ⟨hivlen, hfb⟩ := hiv
  have hcipher := encryptChunk_length mode key fb p
  have hx : ((encryptChunk mode key fb p).1 ++ iv).length = v.latched.arg1.toNat := by
    rw [List.length_append, hcipher, hlen]
  have hwhole : iv.length = 0 ∨ iv.length = 16 := by
    rw [hivlen, ivLen]
    split <;> simp
  have hoperands : v.decStartOperands mode imm.toNat = .ok (key, (encryptChunk mode key fb p).1 ++ iv) :=
    decStartOperands_ok_iff.mpr ⟨hsize, hranges, by omega, ⟨by omega, by omega⟩,
      readKeyThenInput_of_holds hkey hx holdsKey holds⟩
  have htake : ((encryptChunk mode key fb p).1 ++ iv).take
      (((encryptChunk mode key fb p).1 ++ iv).length - ivLen mode) = (encryptChunk mode key fb p).1 := by
    rw [List.length_append, hivlen, Nat.add_sub_cancel, List.take_left]
  simp only [execAesdecs_eq, hoperands, finish_ok, htake, hfb, decryptChunk_encryptChunk]
  exact congrArg (fun r => Host.Outcome.next (v.complete r)) (deliver_pad _ hroom)

/-- AESDECC of what a Continue encrypted gives the chunk and the same feedback (R463). -/
theorem execAesdecc_of_encrypted (hopen : (v.ctx k).active = true ∧ (v.ctx k).dir = .dec)
    (hranges : v.latched.arg0.toNat + v.latched.arg1.toNat ≤ 65536 ∧
      v.latched.arg2.toNat + v.latched.arg3.toNat ≤ 65536)
    (hlen : 16 * (p.length / 16 + 1) = v.latched.arg1.toNat)
    (holds : v.Holds v.latched.arg0.toNat
      (encryptChunk (v.ctx k).mode (v.ctx k).keyBytes (v.ctx k).fb p).1)
    (hroom : p.length ≤ v.latched.arg3.toNat) :
    let e := encryptChunk (v.ctx k).mode (v.ctx k).keyBytes (v.ctx k).fb p
    exec (.aesdecc k) v = .next (((v.write v.latched.arg2.toNat p).setCtx k
      { v.ctx k with fb := e.2 }).setRes (natRes p.length) (natRes (padLen p.length))).succeed := by
  intro e
  have hoperands : v.decContOperands k = .ok e.1 :=
    decContOperands_ok_iff.mpr ⟨hopen, hranges, by omega, by omega,
      (read_eq_ok v ((encryptChunk_length _ _ _ p).trans hlen)).mpr holds⟩
  simp only [execAesdecc_eq, hoperands, finish_ok, e, decryptChunk_encryptChunk]
  exact congrArg (fun r => Host.Outcome.next (v.complete r)) (deliver_pad _ hroom)

/-! ### The round trips -/

/-- A range that a write does not meet holds what it held (R104). -/
theorem State.Holds.of_write {a b : Nat} {bytes new : List Byte} (h : s.Holds a bytes) (hwf : Memory.wf s.buf)
    (hdisjoint : a + bytes.length ≤ b ∨ b + new.length ≤ a) : (s.write b new).Holds a bytes := by
  intro i hi
  rw [State.write_buf, memGet_memWrite new hwf.1, if_neg (by omega)]
  exact h i hi

theorem natRes_toNat {n : Nat} (h : n ≤ 65536) : (natRes n).toNat = n := Nat.mod_eq_of_lt (by omega)

/-- The output of one command as the input of the next, with a destination of its own, stays in the buffer. -/
theorem replayed_ranges {src dst : Word} {n : Nat} (hsrc : src.toNat + n ≤ 65536) (hdst : dst.toNat + n ≤ 65536) :
    src.toNat + (natRes n).toNat ≤ 65536 ∧ dst.toNat + (natRes n).toNat ≤ 65536 := by
  rw [natRes_toNat (by omega)]
  exact ⟨hsrc, hdst⟩

/-- A length that was an argument comes back as the word it was (R47). -/
theorem natRes_of_toNat {n : Nat} {w : Word} (h : n = w.toNat) : natRes n = w := by
  rw [h, natRes, BitVec.ofNat_toNat, BitVec.setWidth_eq]

/-- Settles O57: the IV after the ciphertext restores the feedback, and the key survived the output. -/
theorem startRoundTripsThroughTheBuffer : Obligations.StartRoundTripsThroughTheBuffer := by
  intro s t k k' mode imm w d p hwf hp holdsP hexec hok hdisjoint hd
  obtain ⟨key, p', fb, iv, used, hoperands, hiv, rfl⟩ := execAesencs_success hexec hok
  obtain ⟨hsize, ⟨hsrc, hdst, hka⟩, hne, hfits, hread⟩ := encStartOperands_ok_iff.mp hoperands
  obtain ⟨⟨hkey, holdsKey⟩, hp', holdsP'⟩ := readKeyThenInput_eq_ok_iff.mp hread
  obtain rfl : p' = p :=
    Except.ok.inj (((read_eq_ok s hp').mpr holdsP').symm.trans ((read_eq_ok s hp).mpr holdsP))
  have hcap : pad16 p'.length + iv.length ≤ s.latched.arg3.toNat := by rw [hp', hiv.1]; exact hfits
  have hlen : ((encryptChunk mode key fb p').1 ++ iv).length = pad16 p'.length + iv.length := by
    rw [List.length_append, encryptChunk_length, pad16_eq]
  have hres : (natRes (pad16 p'.length + iv.length)).toNat = pad16 p'.length + iv.length :=
    natRes_toNat (by omega)
  simp only [State.startEnc, State.succeed_res0, State.setRes_res0, hres] at hdisjoint hd
  have hwrote := holds_of_written hwf s.latched.arg2.toNat ((encryptChunk mode key fb p').1 ++ iv)
  have hkept := holdsKey.of_write (new := (encryptChunk mode key fb p').1 ++ iv) hwf
    (b := s.latched.arg2.toNat) (by omega)
  have hbuf : Memory.wf (s.write s.latched.arg2.toNat ((encryptChunk mode key fb p').1 ++ iv)).buf :=
    memWrite_wf _ hwf (show _ ≤ 65536 by omega)
  let v : State := { ((s.spend used).startEnc k mode key p' fb iv).succeed with
    seq := .busy w ⟨s.latched.arg2, natRes (pad16 p'.length + iv.length), d,
      natRes (pad16 p'.length + iv.length), s.latched.arg4⟩ }
  have ⟨hsrc', hdst'⟩ := replayed_ranges (src := s.latched.arg2) (by omega) hd
  have hinput : 16 * (p'.length / 16 + 1) + iv.length = v.latched.arg1.toNat := by
    rw [← pad16_eq]
    exact hres.symm
  have hroom : p'.length ≤ pad16 p'.length + iv.length := by rw [pad16]; omega
  have hdec : exec (.aesdecs k' mode imm) v = _ :=
    execAesdecs_of_encrypted hsize ⟨hsrc', hdst', hka⟩ hiv hkey hinput hkept hwrote (hroom.trans hres.ge)
  have hctx := State.ctx_setCtx_same (v.write d.toNat p') k'
    (startedCtx .dec mode key (encryptChunk mode key fb p').2)
  have hctx' : v.ctx k = startedCtx .enc mode key (encryptChunk mode key fb p').2 :=
    State.ctx_setCtx_same (s.spend used) k _
  exact ⟨_, hdec, rfl, natRes_of_toNat hp', holds_of_written (s := v) hbuf d.toNat p',
    (congrArg Ctx.fb hctx).trans (congrArg Ctx.fb hctx').symm,
    (congrArg Ctx.key hctx).trans (congrArg Ctx.key hctx').symm⟩

/-- Settles O58: the decrypting context has the mode, key and feedback the chunk was encrypted under. -/
theorem continueRoundTripsThroughTheBuffer : Obligations.ContinueRoundTripsThroughTheBuffer := by
  intro s t k k' w d p hwf hp holdsP hexec hok hd
  obtain ⟨p', hoperands, rfl⟩ := execAesencc_success hexec hok
  obtain ⟨⟨hactive, -⟩, ⟨hsrc, hdst⟩, hne, hfits, hread⟩ := encContOperands_ok_iff.mp hoperands
  obtain rfl : p' = p := Except.ok.inj (hread.symm.trans ((read_eq_ok s hp).mpr holdsP))
  generalize he : encryptChunk (s.ctx k).mode (s.ctx k).keyBytes (s.ctx k).fb p' = e at *
  have hcap : pad16 p'.length ≤ s.latched.arg3.toNat := by rw [hp]; exact hfits
  have hlen : e.1.length = pad16 p'.length := by rw [← he, encryptChunk_length, pad16_eq]
  have hres : (natRes (pad16 p'.length)).toNat = pad16 p'.length := natRes_toNat (by omega)
  simp only [State.succeed_res0, State.setRes_res0, hres] at hd
  have hwrote := holds_of_written hwf s.latched.arg2.toNat e.1
  have hbuf : Memory.wf (s.write s.latched.arg2.toNat e.1).buf :=
    memWrite_wf _ hwf (show _ ≤ 65536 by omega)
  let t : State := (((s.write s.latched.arg2.toNat e.1).setCtx k { s.ctx k with fb := e.2 }).setRes
    (natRes (pad16 p'.length)) (natRes (padLen p'.length))).succeed
  let v : State := { t with
    ctxs := t.ctxs.set k' { s.ctx k with dir := .dec }
    seq := .busy w ⟨s.latched.arg2, natRes (pad16 p'.length), d, natRes (pad16 p'.length), 0⟩ }
  have hv : v.ctx k' = { s.ctx k with dir := .dec } := State.ctx_setCtx_same t k' _
  have ⟨hsrc', hdst'⟩ := replayed_ranges (src := s.latched.arg2) (by omega) hd
  have hinput : 16 * (p'.length / 16 + 1) = v.latched.arg1.toNat := by
    rw [← pad16_eq]
    exact hres.symm
  have hroom : p'.length ≤ pad16 p'.length := Nat.le_add_right _ _
  have hsame : encryptChunk (v.ctx k').mode (v.ctx k').keyBytes (v.ctx k').fb p' = e := by rw [hv]; exact he
  have hdec : exec (.aesdecc k') v = _ :=
    execAesdecc_of_encrypted (by rw [hv]; exact ⟨hactive, rfl⟩) ⟨hsrc', hdst'⟩ hinput
      (by rw [hsame]; exact hwrote) (hroom.trans hres.ge)
  have hctx := State.ctx_setCtx_same (v.write d.toNat p') k' { v.ctx k' with
    fb := (encryptChunk (v.ctx k').mode (v.ctx k').keyBytes (v.ctx k').fb p').2 }
  have hctx' : t.ctx k = { s.ctx k with fb := e.2 } :=
    State.ctx_setCtx_same (s.write s.latched.arg2.toNat e.1) k _
  have hfb : (encryptChunk (v.ctx k').mode (v.ctx k').keyBytes (v.ctx k').fb p').2 = (t.ctx k).fb := by
    rw [hsame, hctx']
  exact ⟨_, hdec, rfl, natRes_of_toNat hp, holds_of_written (s := v) hbuf d.toNat p',
    (congrArg Ctx.fb hctx).trans hfb⟩

end Sys2Proof.Machine
end
